-- ==== Sys2Proof/Word.lean ====
section
/-! DEFINITION. The widths of XCLK's words (00_scope.md section 4 and R9: every value is unsigned). -/

namespace Sys2Proof

/-- A command word, a window register, the overflow tally: 32 bits (R32, R44, R80). -/
abbrev Word := BitVec 32

/-- A `PC`: the byte offset of the next command word of a list (R22). The offset of every word of a legal list is a 32-bit
number; bit 32 is 1 only at the end of a list of exactly 2^30 words, where `PC = 4 × length` (R8, R261) is 2^32, so that `PC`
never wraps (log 14). -/
abbrev Offset := BitVec 33

/-- A tick count: the counter, a compare register, an `IMM` operand: 24 bits (R24, R28, R83). -/
abbrev Ticks := BitVec 24

/-- The extended time `(OVF << 24) | COUNTER`: 56 bits (R106, R115). -/
abbrev Time := BitVec 56

end Sys2Proof
end

