-- ==== Sys2Proof/Syntax.lean ====
section
/-! DEFINITION. The 21 commands of XCLK (30_encoding.md R84), one constructor for each row of spec/opcode_table.json. -/

namespace Sys2Proof

/-- The eight values of the wake-reason register, in the order of their codes 0 to 7 (10_state.md R37). -/
inductive WakeReason where
  | cleared
  | messageReceived
  | sleepTimerExpired
  | counterOverflowOrOther
  | brownoutWarning
  | hfClockStarted
  | lfClockStarted
  | unknown
  deriving DecidableEq, Repr, Inhabited

/-- A decoded command with its operand fields (R83): `idx` is `IDX`, `cb` and `id` are `CB`, the tick counts are `IMM`,
`reason` is `IMM[2:0]`. No command names a register (10_state.md R20). -/
inductive Instr where
  /-- WAKE.READ (R193) -/
  | wakeRead
  /-- POST.MSG (R194) -/
  | postMsg
  /-- POST.BROWNOUT (R195) -/
  | postBrownout
  /-- LF.START (R224) -/
  | lfStart
  /-- HF.START.DELAY (R225) -/
  | hfStartDelay
  /-- HF.START.IRQ (R226) -/
  | hfStartIrq
  /-- CLK.START (R105) -/
  | clkStart
  /-- CLK.NOW (R107) -/
  | clkNow
  /-- CLK.RESET0 (R109) -/
  | clkReset0
  /-- CLK.ISRUNNING (R110) -/
  | clkIsRunning
  /-- CLK.WAITTICK (R111) -/
  | clkWaitTick
  /-- TMR.START idx, cb, timeout (R145) -/
  | tmrStart (idx : BitVec 2) (cb : BitVec 2) (timeout : Ticks)
  /-- TMR.CANCEL idx (R146) -/
  | tmrCancel (idx : BitVec 2)
  /-- TMR.ISSTARTED idx (R148) -/
  | tmrIsStarted (idx : BitVec 2)
  /-- TMR.ISEXPIRED idx (R149) -/
  | tmrIsExpired (idx : BitVec 2)
  /-- TASK.SCHED id, duration (R160) -/
  | taskSched (id : BitVec 2) (duration : Ticks)
  /-- SLP.TIMEOUT t (R187) -/
  | slpTimeout (t : Ticks)
  /-- SLP.DURATION D (R189) -/
  | slpDuration (d : Ticks)
  /-- SLP.UNTIL reason (R190) -/
  | slpUntil (reason : WakeReason)
  /-- SLP.ISTIMER (R191) -/
  | slpIsTimer
  /-- SLP.SETSANE m (R192) -/
  | slpSetSane (m : Ticks)
  deriving DecidableEq, Repr, Inhabited

end Sys2Proof
end

