-- ==== Sys2Proof/Config.lean ====
section
/-! DEFINITION. The configuration of a run (00_scope.md section 4, R1), the moves of the agents (R2), and the free values:
the OPEN parameters and the order of steps, which the spec does not fix. -/

namespace Sys2Proof

/-- `P_N_TIMERS`: the number of pool timers, 2 or 3 (00_scope.md section 4). -/
inductive PoolSize where
  | two
  | three
  deriving DecidableEq, Repr, Inhabited

/-- `P_BUILD`: whether contract violations are checked (60_exceptions.md R242). -/
inductive Build where
  | debug
  | release
  deriving DecidableEq, Repr, Inhabited

/-- `P_WAIT_LATCH`: whether an interrupt taken before the wait makes the wait return (42_sleep.md R186). -/
inductive WaitLatch where
  | latched
  | notLatched
  deriving DecidableEq, Repr, Inhabited

/-- The reason tag a client callback is invoked with: 2 from an expiry, 3 from the secondary path (41_timer.md R155). -/
inductive CallbackTag where
  | expiry
  | other
  deriving DecidableEq, Repr, Inhabited

/-- The four interrupt lines, numbered 0 to 3 in this order (60_exceptions.md R244). -/
inductive Line where
  | timer
  | clock
  | radio
  | power
  deriving DecidableEq, Repr, Inhabited

/-- The two oscillators (43_startup.md R220). -/
inductive Osc where
  | lf
  | hf
  deriving DecidableEq, Repr, Inhabited

/-- The fire-or-miss draws of one counter tick, one for each compare channel; a draw is used only where the channel
matches while its compare write is uncertain (41_timer.md R140). -/
structure Draws where
  fire0 : Bool
  fire1 : Bool
  fire2 : Bool
  fire3 : Bool
  deriving DecidableEq, Repr, Inhabited

/-- One micro-step of one agent (00_scope.md R2, R3), with the values its rule draws. Which move comes next is not fixed
by the spec (log 1). -/
inductive Move where
  /-- a micro-step of the foreground sequencer (R4) -/
  | fg
  /-- a micro-step of the interrupt sequencer; `line` is the draw of R251 and is used by an entry only -/
  | isr (line : Line)
  /-- a counter tick (40_clock.md R100) with the draws of R140 -/
  | cnt (draws : Draws)
  /-- the settle step (40_clock.md R103) -/
  | settle
  /-- an oscillator becomes `Running` (43_startup.md R221) -/
  | osc (x : Osc)
  /-- the radio posts a received message (60_exceptions.md R250) -/
  | envRadio
  /-- the power monitor posts a brownout warning (60_exceptions.md R250) -/
  | envPower
  /-- a spurious wake (42_sleep.md R186) -/
  | envWake
  /-- the bus host reads `n` bytes at `addr` (20_memory.md R62) -/
  | hostRead (addr : Word) (n : Nat)
  /-- the bus host writes `n` bytes at `addr`, the value `v` (20_memory.md R62) -/
  | hostWrite (addr : Word) (n : Nat) (v : Word)
  deriving DecidableEq, Repr, Inhabited

/-- The two command lists of one client callback: `P_CLIENT(cb, 2)` and `P_CLIENT(cb, 3)`. -/
structure ClientLists where
  onExpiry : List Word
  onOther : List Word
  deriving DecidableEq, Repr, Inhabited

/-- The parameters of 00_scope.md section 4 that the model takes as arguments (R1): configuration, not state of the block.
`P_TICK` is informative and has no field (log 22); `faultedWake` is the model's own. -/
structure Params where
  /-- `P_N_TIMERS` -/
  nTimers : PoolSize
  /-- `P_BUILD` -/
  build : Build
  /-- `P_MIN_TIMEOUT`, legal 1..255 -/
  minTimeout : BitVec 8
  /-- `P_CMP_GUARD`, legal 0..`P_MIN_TIMEOUT` -/
  cmpGuard : BitVec 8
  /-- `P_WAIT_LATCH` -/
  waitLatch : WaitLatch
  /-- `P_SPURIOUS_WAKE` -/
  spuriousWake : Bool
  /-- The model's own, no parameter of the spec: whether the spurious wake also ends the wait of a faulted block, on which
  42_sleep.md R186 and 60_exceptions.md R243 disagree (log 28). Only `envWakeStep` reads it. -/
  faultedWake : Bool
  /-- `P_HF_DELAY`, legal 1..0xFFFFFF -/
  hfDelay : Ticks
  /-- `P_BASE`, a multiple of 0x100 -/
  base : Word
  /-- `P_CLIENT(1, ·)` -/
  client1 : ClientLists
  /-- `P_CLIENT(2, ·)` -/
  client2 : ClientLists
  /-- `P_CLIENT(3, ·)` -/
  client3 : ClientLists
  /-- `P_TASK(0)` -/
  task0 : List Word
  /-- `P_TASK(1)` -/
  task1 : List Word
  /-- `P_TASK(2)` -/
  task2 : List Word
  /-- `P_TASK(3)` -/
  task3 : List Word
  /-- `P_PROGRAM` -/
  program : List Word
  deriving DecidableEq, Repr, Inhabited

/-- FREE VALUE (log 1): the `n`-th move that the schedule held in State does not name. Nothing constrains it. -/
opaque Config.freeMove : Nat → Move

/-- FREE VALUE (log 3): `P_BUILD` of the implementation. -/
opaque Config.openBuild : Build

/-- FREE VALUE (log 3): `P_CMP_GUARD` of the implementation; with `P_MIN_TIMEOUT = 2` its legal values are 0, 1 and 2. -/
opaque Config.openCmpGuard : Fin 3

/-- FREE VALUE (log 3): `P_WAIT_LATCH` of the implementation. -/
opaque Config.openWaitLatch : WaitLatch

/-- FREE VALUE (log 3): `P_SPURIOUS_WAKE` of the implementation. -/
opaque Config.openSpuriousWake : Bool

/-- FREE VALUE (log 28): whether a spurious wake ends the wait of a faulted block; the rules disagree. -/
opaque Config.openFaultedWake : Bool

/-- FREE VALUE (log 3): `P_HF_DELAY - 1` of the implementation; the legal delays are 1..0xFFFFFF. -/
opaque Config.openHfDelayLessOne : Fin 0xFFFFFF

/-- FREE VALUE (log 3): bits 31:8 of `P_BASE`, which is a multiple of 0x100 (20_memory.md R61). -/
opaque Config.openBaseHigh : BitVec 24

/-- FREE VALUE (log 3): the client lists `P_CLIENT(cb, ·)`, `cb` in 1..3, that the program supplies. -/
opaque Config.openClient : Nat → ClientLists

/-- FREE VALUE (log 3): the task lists `P_TASK(id)`, `id` in 0..3, that the program supplies. -/
opaque Config.openTask : Nat → List Word

/-- A list longer than 2^30 words is not a legal configuration (10_state.md R22, I31): an open list is cut to the legal
length. -/
def Config.legalList (l : List Word) : List Word := l.take (2 ^ 30)

/-- The open client lists, each of a legal length. -/
def Config.legalClient (cb : Nat) : ClientLists :=
  { onExpiry := Config.legalList (Config.openClient cb).onExpiry
    onOther := Config.legalList (Config.openClient cb).onOther }

/-- The configuration at reset: `P_N_TIMERS = 2` and `P_MIN_TIMEOUT = 2`, the values 00_scope.md section 4 gives for this
hardware; every OPEN parameter a free value over its legal range (log 3), `faultedWake` a free value (log 28); no program
placed (log 4). -/
def Config.params : Params :=
  { nTimers := .two
    build := Config.openBuild
    minTimeout := 2
    cmpGuard := BitVec.ofNat 8 Config.openCmpGuard.val
    waitLatch := Config.openWaitLatch
    spuriousWake := Config.openSpuriousWake
    faultedWake := Config.openFaultedWake
    hfDelay := BitVec.ofNat 24 (Config.openHfDelayLessOne.val + 1)
    base := Config.openBaseHigh ++ 0#8
    client1 := Config.legalClient 1
    client2 := Config.legalClient 2
    client3 := Config.legalClient 3
    task0 := Config.legalList (Config.openTask 0)
    task1 := Config.legalList (Config.openTask 1)
    task2 := Config.legalList (Config.openTask 2)
    task3 := Config.legalList (Config.openTask 3)
    program := [] }

end Sys2Proof
end

