-- ==== Sys2Proof/Decode.lean ====
section
/-! DEFINITION. Decoding a command word and encoding a command (30_encoding.md R80 to R86, R91). Decoding is total: every
32-bit word selects exactly one row of R84 or is illegal (R81). -/

namespace Sys2Proof

/-- The code of a wake reason (10_state.md R37). -/
def WakeReason.code : WakeReason → BitVec 3
  | .cleared => 0
  | .messageReceived => 1
  | .sleepTimerExpired => 2
  | .counterOverflowOrOther => 3
  | .brownoutWarning => 4
  | .hfClockStarted => 5
  | .lfClockStarted => 6
  | .unknown => 7

/-- The wake reason of a 3-bit code (10_state.md R37). -/
def WakeReason.ofCode (c : BitVec 3) : WakeReason :=
  if c = 0 then .cleared
  else if c = 1 then .messageReceived
  else if c = 2 then .sleepTimerExpired
  else if c = 3 then .counterOverflowOrOther
  else if c = 4 then .brownoutWarning
  else if c = 5 then .hfClockStarted
  else if c = 6 then .lfClockStarted
  else .unknown

/-- `OP = w[31:28]` (R83). -/
def fieldOp (w : Word) : BitVec 4 := w.extractLsb' 28 4

/-- `IDX = w[27:26]` (R83). -/
def fieldIdx (w : Word) : BitVec 2 := w.extractLsb' 26 2

/-- `CB = w[25:24]` (R83). -/
def fieldCb (w : Word) : BitVec 2 := w.extractLsb' 24 2

/-- `IMM = w[23:0]` (R83). -/
def fieldImm (w : Word) : Ticks := w.extractLsb' 0 24

/-- `SUB = w[27:24]` of format `S` (R80, R83). -/
def fieldSub (w : Word) : BitVec 4 := w.extractLsb' 24 4

/-- `IMM[2:0]`, the reason operand of `SLP.UNTIL` (R83). -/
def fieldReason (w : Word) : BitVec 3 := w.extractLsb' 0 3

/-- Why a word is illegal (R86). Each is the fault ILLEGAL_COMMAND. -/
inductive Illegal where
  /-- the all-zero word -/
  | zeroWord
  /-- format `S` with `SUB` 0 and a non-zero `IMM`, or `SUB` in 7..15: no function of the system group -/
  | noSystemFunction
  /-- a must-be-zero bit of the row is 1 (R85) -/
  | mustBeZero
  deriving DecidableEq, Repr

/-- A row whose must-be-zero bits are `reserved`: the command if they are all 0 (R85). -/
def ifZero {n : Nat} (reserved : BitVec n) (i : Instr) : Except Illegal Instr :=
  if reserved = 0 then .ok i else .error .mustBeZero

/-- The system group, `OP = 0` (R84, format `S`): `SUB` selects the function and `IMM` must be 0. -/
def decodeSystem (w : Word) : Except Illegal Instr :=
  let sub := fieldSub w
  if w = 0 then .error .zeroWord
  else if sub = 1 then ifZero (fieldImm w) .wakeRead
  else if sub = 2 then ifZero (fieldImm w) .postMsg
  else if sub = 3 then ifZero (fieldImm w) .postBrownout
  else if sub = 4 then ifZero (fieldImm w) .lfStart
  else if sub = 5 then ifZero (fieldImm w) .hfStartDelay
  else if sub = 6 then ifZero (fieldImm w) .hfStartIrq
  else .error .noSystemFunction

/-- The decoder (R81, R84, R85, R86). -/
def decode (w : Word) : Except Illegal Instr :=
  let op := fieldOp w
  let idx := fieldIdx w
  let cb := fieldCb w
  let imm := fieldImm w
  if op = 0 then decodeSystem w
  else if op = 1 then ifZero (idx ++ cb ++ imm) .clkStart
  else if op = 2 then ifZero (idx ++ cb ++ imm) .clkNow
  else if op = 3 then ifZero (idx ++ cb ++ imm) .clkReset0
  else if op = 4 then ifZero (idx ++ cb ++ imm) .clkIsRunning
  else if op = 5 then ifZero (idx ++ cb ++ imm) .clkWaitTick
  else if op = 6 then .ok (.tmrStart idx cb imm)
  else if op = 7 then ifZero (cb ++ imm) (.tmrCancel idx)
  else if op = 8 then ifZero (cb ++ imm) (.tmrIsStarted idx)
  else if op = 9 then ifZero (cb ++ imm) (.tmrIsExpired idx)
  else if op = 10 then ifZero idx (.taskSched cb imm)
  else if op = 11 then ifZero (idx ++ cb) (.slpTimeout imm)
  else if op = 12 then ifZero (idx ++ cb) (.slpDuration imm)
  else if op = 13 then
    ifZero (idx ++ cb ++ imm.extractLsb' 3 21) (.slpUntil (WakeReason.ofCode (fieldReason w)))
  else if op = 14 then ifZero (idx ++ cb ++ imm) .slpIsTimer
  else ifZero (idx ++ cb) (.slpSetSane imm)

/-- A row of the opcode map: a word `w` selects it when `w &&& mask = pattern` (R84). -/
structure Row where
  mnemonic : String
  pattern : Word
  mask : Word
  deriving DecidableEq, Repr

/-- The opcode map of R84, in the table's order. -/
def opcodeMap : List Row :=
  [ { mnemonic := "WAKE.READ", pattern := 0x01000000, mask := 0xFFFFFFFF }
  , { mnemonic := "POST.MSG", pattern := 0x02000000, mask := 0xFFFFFFFF }
  , { mnemonic := "POST.BROWNOUT", pattern := 0x03000000, mask := 0xFFFFFFFF }
  , { mnemonic := "LF.START", pattern := 0x04000000, mask := 0xFFFFFFFF }
  , { mnemonic := "HF.START.DELAY", pattern := 0x05000000, mask := 0xFFFFFFFF }
  , { mnemonic := "HF.START.IRQ", pattern := 0x06000000, mask := 0xFFFFFFFF }
  , { mnemonic := "CLK.START", pattern := 0x10000000, mask := 0xFFFFFFFF }
  , { mnemonic := "CLK.NOW", pattern := 0x20000000, mask := 0xFFFFFFFF }
  , { mnemonic := "CLK.RESET0", pattern := 0x30000000, mask := 0xFFFFFFFF }
  , { mnemonic := "CLK.ISRUNNING", pattern := 0x40000000, mask := 0xFFFFFFFF }
  , { mnemonic := "CLK.WAITTICK", pattern := 0x50000000, mask := 0xFFFFFFFF }
  , { mnemonic := "TMR.START", pattern := 0x60000000, mask := 0xF0000000 }
  , { mnemonic := "TMR.CANCEL", pattern := 0x70000000, mask := 0xF3FFFFFF }
  , { mnemonic := "TMR.ISSTARTED", pattern := 0x80000000, mask := 0xF3FFFFFF }
  , { mnemonic := "TMR.ISEXPIRED", pattern := 0x90000000, mask := 0xF3FFFFFF }
  , { mnemonic := "TASK.SCHED", pattern := 0xA0000000, mask := 0xFC000000 }
  , { mnemonic := "SLP.TIMEOUT", pattern := 0xB0000000, mask := 0xFF000000 }
  , { mnemonic := "SLP.DURATION", pattern := 0xC0000000, mask := 0xFF000000 }
  , { mnemonic := "SLP.UNTIL", pattern := 0xD0000000, mask := 0xFFFFFFF8 }
  , { mnemonic := "SLP.ISTIMER", pattern := 0xE0000000, mask := 0xFFFFFFFF }
  , { mnemonic := "SLP.SETSANE", pattern := 0xF0000000, mask := 0xFF000000 }
  ]

/-- `w` selects the row (R84). -/
def Row.selects (r : Row) (w : Word) : Bool := w &&& r.mask == r.pattern

/-- Format `T`: `OP`, `IDX`, `CB`, `IMM` from bit 31 down (R80). -/
def packT (op : BitVec 4) (idx cb : BitVec 2) (imm : Ticks) : Word := op ++ idx ++ cb ++ imm

/-- Format `S`: `OP = 0`, `SUB`, and a zero `IMM` (R80). -/
def packS (sub : BitVec 4) : Word := 0#4 ++ sub ++ 0#24

/-- The word of a command (R84, R91): its row's match with the operands in their fields, unused operands 0. -/
def encode : Instr → Word
  | .wakeRead => packS 1
  | .postMsg => packS 2
  | .postBrownout => packS 3
  | .lfStart => packS 4
  | .hfStartDelay => packS 5
  | .hfStartIrq => packS 6
  | .clkStart => packT 1 0 0 0
  | .clkNow => packT 2 0 0 0
  | .clkReset0 => packT 3 0 0 0
  | .clkIsRunning => packT 4 0 0 0
  | .clkWaitTick => packT 5 0 0 0
  | .tmrStart idx cb timeout => packT 6 idx cb timeout
  | .tmrCancel idx => packT 7 idx 0 0
  | .tmrIsStarted idx => packT 8 idx 0 0
  | .tmrIsExpired idx => packT 9 idx 0 0
  | .taskSched id duration => packT 10 0 id duration
  | .slpTimeout t => packT 11 0 0 t
  | .slpDuration d => packT 12 0 0 d
  | .slpUntil reason => packT 13 0 0 (reason.code.setWidth 24)
  | .slpIsTimer => packT 14 0 0 0
  | .slpSetSane m => packT 15 0 0 m

/-- The mnemonic of a command's row (R84). -/
def Instr.mnemonic : Instr → String
  | .wakeRead => "WAKE.READ"
  | .postMsg => "POST.MSG"
  | .postBrownout => "POST.BROWNOUT"
  | .lfStart => "LF.START"
  | .hfStartDelay => "HF.START.DELAY"
  | .hfStartIrq => "HF.START.IRQ"
  | .clkStart => "CLK.START"
  | .clkNow => "CLK.NOW"
  | .clkReset0 => "CLK.RESET0"
  | .clkIsRunning => "CLK.ISRUNNING"
  | .clkWaitTick => "CLK.WAITTICK"
  | .tmrStart _ _ _ => "TMR.START"
  | .tmrCancel _ => "TMR.CANCEL"
  | .tmrIsStarted _ => "TMR.ISSTARTED"
  | .tmrIsExpired _ => "TMR.ISEXPIRED"
  | .taskSched _ _ => "TASK.SCHED"
  | .slpTimeout _ => "SLP.TIMEOUT"
  | .slpDuration _ => "SLP.DURATION"
  | .slpUntil _ => "SLP.UNTIL"
  | .slpIsTimer => "SLP.ISTIMER"
  | .slpSetSane _ => "SLP.SETSANE"

/-- The instruction the decoder reads from an instruction of `nbits` bits `w`. Every command is one 32-bit word with no
byte view (R63, R80), so the bits above `nbits` are 0 and the word is `w` itself. -/
def decodeTableWord (nbits w : Nat) : Option Instr :=
  (decode (BitVec.ofNat 32 (w % 2 ^ nbits))).toOption

end Sys2Proof
end

