-- ==== Sys2Proof/Machine/State.lean ====
section
/-! DEFINITION. The state of XCLK as plain data (10_state.md R20 to R43), and the machine right after reset
(70_reset_and_hazards.md R300). The field `cfg` is the configuration, an argument of the step relation (00_scope.md R1);
`issued` and `cmdHeld` are the command port of 20_memory.md R66; `sched` and `draws` are the model's own (log 1). -/

namespace Sys2Proof.Machine

/-- What stops the machine with a fault: nothing. A contract violation or a refused access is the block's sticky fault,
a NEXT state in which `FAULT = 1` and the hardware agents and the host go on (60_exceptions.md R243), so no step ends in
an outcome of this type (log 15). Safe: there is nothing to raise. -/
inductive Fault where
  deriving DecidableEq, Repr

/-- What is refused. -/
inductive Refusal where
  /-- Raised by an arm of `exec` whose instruction has no meaning yet: no arm of this model. Safe. -/
  | notModelled (mnemonic : String)
  /-- Raised at the fetch from a command list of more than 2^30 words, which 10_state.md R22 refuses (I31 of
  93_implementation_defined.md; log 14). Safe: such a configuration is not legal. -/
  | listTooLong
  deriving DecidableEq, Repr

/-- The fault codes of 60_exceptions.md R241; `none` is code 0. Codes 13..255 are never written. -/
inductive FaultCode where
  | none
  | illegalCommand
  | badIndex
  | doubleStart
  | doubleSchedule
  | saneTimeout
  | arbReexpiry
  | arbClockStartup
  | lfNotStarted
  | hfPrecondition
  | busError
  | monotonicity
  | illegalContext
  deriving DecidableEq, Repr, Inhabited

/-- A pool timer's index (41_timer.md R142). With `P_N_TIMERS = 2` no command reaches `t2` (log 17). -/
inductive PoolIx where
  | t0
  | t1
  | t2
  deriving DecidableEq, Repr, Inhabited

/-- A compare channel: 0 to 2 of the pool, 3 of the task timer (R28, R142). -/
inductive ChIx where
  | ch0
  | ch1
  | ch2
  | ch3
  deriving DecidableEq, Repr, Inhabited

/-- The state of an oscillator: codes 0, 1, 2 (R39). -/
inductive OscState where
  | stopped
  | starting
  | running
  deriving DecidableEq, Repr, Inhabited

/-- The executing context (00_scope.md R11). -/
inductive Ctx where
  | fg
  | isr
  deriving DecidableEq, Repr, Inhabited

/-- An entry of the event history (00_scope.md R12). -/
inductive Event where
  | callback (index : PoolIx) (cb : BitVec 2) (tag : CallbackTag)
  | taskRun (id : BitVec 2)
  | isrEntry (line : Line)
  | fault (code : FaultCode)
  deriving DecidableEq, Repr

/-- One compare channel: `CC`, `EVT_CMP`, `INTEN_CMP`, `CC_UNCERTAIN` (R28 to R31). -/
structure Channel where
  cc : Ticks
  evt : Bool
  inten : Bool
  uncertain : Bool
  deriving DecidableEq, Repr, Inhabited

/-- The four compare channels. -/
structure Channels where
  c0 : Channel
  c1 : Channel
  c2 : Channel
  c3 : Channel
  deriving DecidableEq, Repr, Inhabited

/-- One pool timer: `INUSE`, `EXPIRED`, `CBID` (R35). -/
structure Timer where
  inUse : Bool
  expired : Bool
  cbId : BitVec 2
  deriving DecidableEq, Repr, Inhabited

/-- The pool timers (R35). -/
structure Timers where
  p0 : Timer
  p1 : Timer
  p2 : Timer
  deriving DecidableEq, Repr, Inhabited

/-- The next micro-step of `NOW` with its locals `a` and `low` (40_clock.md R106). -/
inductive NowLabel where
  | s1
  | s2 (a : Word)
  | s3 (a : Word) (low : Ticks)
  deriving DecidableEq, Repr, Inhabited

/-- The next micro-step of `ARM`: the time query, the compare write S4, the commit S5 (41_timer.md R143). -/
inductive ArmLabel where
  | now (l : NowLabel)
  | compare (t0 : Ticks)
  | commit (t0 : Ticks)
  deriving DecidableEq, Repr, Inhabited

/-- The next micro-step of `STOP` (41_timer.md R147). -/
inductive StopLabel where
  | s1
  | s2
  | s3
  deriving DecidableEq, Repr, Inhabited

/-- The next micro-step of `WAIT` (42_sleep.md R186). -/
inductive WaitLabel where
  | s1
  | s2
  deriving DecidableEq, Repr, Inhabited

/-- The next micro-step of the body of `SLP.TIMEOUT` (42_sleep.md R187): the clear S1, the check S2, the start S3 to S8
with the checked timeout, the wait S9 to S10, the stop S11 to S13. -/
inductive SleepLabel where
  | clear
  | sane
  | start (t : Ticks)
  | arm (t : Ticks) (l : ArmLabel)
  | wait (l : WaitLabel)
  | stop (l : StopLabel)
  deriving DecidableEq, Repr, Inhabited

/-- The next micro-step of the body of `SLP.DURATION` after its context check (42_sleep.md R189): the start time S2 to S4,
the loop's time L1 to L3, its sleep L4, its test Lx. -/
inductive DurationLabel where
  | begin (l : NowLabel)
  | again (start : Time) (l : NowLabel)
  | sleep (start : Time) (t : Ticks) (l : SleepLabel)
  | test (start : Time)
  deriving DecidableEq, Repr, Inhabited

/-- The loop of `SLP.UNTIL`: the wait L1 to L2, the test L3 (42_sleep.md R190). -/
inductive UntilLabel where
  | wait (l : WaitLabel)
  | test
  deriving DecidableEq, Repr, Inhabited

/-- The micro-steps of `LF.START` after S1 (43_startup.md R224). -/
inductive LfLabel where
  | enable
  | request
  | loop (l : UntilLabel)
  | disable
  deriving DecidableEq, Repr, Inhabited

/-- The micro-steps of `HF.START.IRQ` after S1 (43_startup.md R226). -/
inductive HfIrqLabel where
  | clear
  | enable
  | request
  | loop (l : UntilLabel)
  | disable
  deriving DecidableEq, Repr, Inhabited

/-- The next micro-step of a command under execution, with the locals its rule names (R23). Single-label commands are
never under execution between two micro-steps. -/
inductive Label where
  | clkNow (l : NowLabel)
  | clkWaitTick (t0 : Ticks)
  | tmrStart (l : ArmLabel)
  | tmrCancel (l : StopLabel)
  | taskSched (l : ArmLabel)
  | slpTimeout (l : SleepLabel)
  | slpDuration (l : DurationLabel)
  | slpUntil (l : UntilLabel)
  | lfStart (l : LfLabel)
  | hfStartDelay (l : DurationLabel)
  | hfStartIrq (l : HfIrqLabel)
  deriving DecidableEq, Repr, Inhabited

/-- A command under execution: the decoded command and its next micro-step (R23). -/
structure CmdFrame where
  cmd : Instr
  label : Label
  deriving DecidableEq, Repr, Inhabited

/-- A command list run in interrupt context: `P_CLIENT(cb, tag)` or `P_TASK(id)` (R60). -/
inductive ListId where
  | client (cb : BitVec 2) (tag : CallbackTag)
  | task (id : BitVec 2)
  deriving DecidableEq, Repr, Inhabited

/-- An entry of `ISR_FRAME`'s list stack: the list, its own `PC` (R22), its command under execution (R41, R261). -/
structure ListFrame where
  list : ListId
  pc : Offset
  frame : Option CmdFrame
  deriving DecidableEq, Repr, Inhabited

/-- The next micro-step of a handler, with its locals (41_timer.md R151 to R163, 60_exceptions.md R255 to R260). A `todo`
list holds the indices still to be visited, its head first. -/
inductive HandlerLabel where
  /-- `OVF_PART` S1 (R256) -/
  | ovfCount
  /-- `OVF_PART` S2 (R256) -/
  | ovfSpin
  /-- `POOL_SCAN` (R151) -/
  | poolScan (todo : List PoolIx)
  /-- `POOL_HANDLE` S0 (R152) -/
  | poolCollect
  /-- `POOL_HANDLE` S_j, the recheck (R152) -/
  | poolHandle (todo : List PoolIx)
  /-- `HANDLE_EXPIRATION` S1 to S3 (R154) -/
  | expireStop (j : PoolIx) (cb : BitVec 2) (l : StopLabel) (todo : List PoolIx)
  /-- `HANDLE_EXPIRATION` S4 (R154) -/
  | expireDispatch (j : PoolIx) (cb : BitVec 2) (todo : List PoolIx)
  /-- `SECONDARY` S1 (R153) -/
  | secondary
  /-- `TASK_SCAN` S1 (R162) -/
  | taskScan
  /-- `TASK_HANDLE` S1 (R163) -/
  | taskHandle
  /-- `TASK_HANDLE` S2 (R163) -/
  | taskDone
  /-- `CLOCK` handler S1 (R258) -/
  | clockLf
  /-- `CLOCK` handler S2 (R258) -/
  | clockLfPost (lf : Bool)
  /-- `CLOCK` handler S3 (R258) -/
  | clockHf
  /-- `CLOCK` handler S4 (R258) -/
  | clockHfPost (hf : Bool)
  /-- `RADIO` handler S1 (R259) -/
  | radioPost
  /-- `POWER` handler S1 (R260) -/
  | powerPost
  /-- the exit (R253) -/
  | exit
  deriving DecidableEq, Repr, Inhabited

/-- `ISR_FRAME`: the line served, the handler's next step, the handled set `H`, the stack of command lists (R41, R252). -/
structure IsrFrame where
  line : Line
  label : HandlerLabel
  handled : List PoolIx
  stack : List ListFrame
  deriving DecidableEq, Repr, Inhabited

/-- The state of the machine. -/
structure State where
  /-- the configuration (00_scope.md R1) -/
  cfg : Params
  /-- `RES` (R21) -/
  res : BitVec 64
  /-- `PC` of `FG` (R22; log 14) -/
  pc : Offset
  /-- `FG_FRAME` (R23) -/
  fgFrame : Option CmdFrame
  /-- `FG_WAITING` (R23) -/
  fgWaiting : Bool
  /-- `COUNTER` (R24) -/
  counter : Ticks
  /-- `COUNTER_RUNNING` (R25) -/
  counterRunning : Bool
  /-- `EVT_OVF` (R26) -/
  evtOvf : Bool
  /-- `EVT_OVF_CLRPEND` (R26) -/
  evtOvfClrPend : Bool
  /-- `INTEN_OVF` (R27) -/
  intenOvf : Bool
  /-- `CC`, `EVT_CMP`, `INTEN_CMP`, `CC_UNCERTAIN` of the four channels (R28 to R31) -/
  chans : Channels
  /-- `OVF` (R32) -/
  ovf : Word
  /-- `LAST_NOW` (R33) -/
  lastNow : Time
  /-- `POOL_INIT` (R34) -/
  poolInit : Bool
  /-- `INUSE`, `EXPIRED`, `CBID` of the pool timers (R35) -/
  timers : Timers
  /-- `TASK_INUSE` (R36) -/
  taskInUse : Bool
  /-- `TASK_EXPIRED` (R36) -/
  taskExpired : Bool
  /-- `TASK_ID` (R36) -/
  taskId : BitVec 2
  /-- `WAKE` (R37) -/
  wake : WakeReason
  /-- `SANE` (R38) -/
  sane : Ticks
  /-- `LFCLK` (R39) -/
  lfclk : OscState
  /-- `HFCLK` (R39) -/
  hfclk : OscState
  /-- `EVT_LFSTARTED` (R39) -/
  evtLfStarted : Bool
  /-- `EVT_HFSTARTED` (R39) -/
  evtHfStarted : Bool
  /-- `INTEN_LF` (R39) -/
  intenLf : Bool
  /-- `INTEN_HF` (R39) -/
  intenHf : Bool
  /-- `PEND_TIMER_SW` (R40) -/
  pendTimerSw : Bool
  /-- `PEND_RADIO` (R40) -/
  pendRadio : Bool
  /-- `PEND_POWER` (R40) -/
  pendPower : Bool
  /-- `ISR_ACTIVE` (R41) -/
  isrActive : Bool
  /-- `ISR_FRAME` (R41) -/
  isrFrame : Option IsrFrame
  /-- `EVLATCH` (R42) -/
  evLatch : Bool
  /-- `FAULT` (R43) -/
  fault : Bool
  /-- `FAULT_CODE` (R43) -/
  faultCode : FaultCode
  /-- the event history (00_scope.md R12) -/
  history : List Event
  /-- the words the host has issued through `CMD`, in issue order, after `P_PROGRAM` (20_memory.md R66; log 5) -/
  issued : List Word
  /-- the host's `CMD` write held while `FG` is busy (20_memory.md R66; log 6) -/
  cmdHeld : Option Word
  /-- the model's own: the moves still to come (log 1) -/
  sched : List Move
  /-- the model's own: how many moves were drawn from `Config.freeMove` (log 1) -/
  draws : Nat
  deriving DecidableEq, Repr

/-- The reset value of a compare channel (R28 to R31). -/
def Channel.reset : Channel := { cc := 0, evt := false, inten := false, uncertain := false }

/-- The reset value of a pool timer (R35). -/
def Timer.reset : Timer := { inUse := false, expired := false, cbId := 0 }

/-- The machine right after reset with the configuration `p` (70_reset_and_hazards.md R300, R301). -/
def State.resetWith (p : Params) : State :=
  { cfg := p
    res := 0
    pc := 0
    fgFrame := none
    fgWaiting := false
    counter := 0
    counterRunning := false
    evtOvf := false
    evtOvfClrPend := false
    intenOvf := false
    chans := { c0 := .reset, c1 := .reset, c2 := .reset, c3 := .reset }
    ovf := 0
    lastNow := 0
    poolInit := false
    timers := { p0 := .reset, p1 := .reset, p2 := .reset }
    taskInUse := false
    taskExpired := false
    taskId := 0
    wake := .cleared
    sane := 0xFFFFFF
    lfclk := .stopped
    hfclk := .stopped
    evtLfStarted := false
    evtHfStarted := false
    intenLf := false
    intenHf := false
    pendTimerSw := false
    pendRadio := false
    pendPower := false
    isrActive := false
    isrFrame := none
    evLatch := false
    fault := false
    faultCode := .none
    history := []
    issued := []
    cmdHeld := none
    sched := []
    draws := 0 }

/-- The machine right after reset (R300), in the configuration of `Config.params` (log 3). -/
def State.reset : State := State.resetWith Config.params

end Sys2Proof.Machine
end

