-- ==== Sys2Proof/WellFormed.lean ====
section
/-! DEFINITION. Well-formedness: of a command for a pool size (30_encoding.md R83, R87) and of a configuration
(00_scope.md section 4, 10_state.md R22). The widths of a command's fields are in its types. -/

namespace Sys2Proof

/-- `IDX` is legal: in 0..`P_N_TIMERS`-1 (R83, R87). -/
def legalIdx (n : PoolSize) (idx : BitVec 2) : Bool :=
  match n with
  | .two => idx.toNat < 2
  | .three => idx.toNat < 3

/-- A command is well formed when every operand has a legal value: only the pool index can be out of its range (R83). An
ill-formed command still decodes; it raises BAD_INDEX when it runs (R87). -/
def Instr.wellFormed (n : PoolSize) : Instr → Bool
  | .tmrStart idx _ _ => legalIdx n idx
  | .tmrCancel idx => legalIdx n idx
  | .tmrIsStarted idx => legalIdx n idx
  | .tmrIsExpired idx => legalIdx n idx
  | .wakeRead => true
  | .postMsg => true
  | .postBrownout => true
  | .lfStart => true
  | .hfStartDelay => true
  | .hfStartIrq => true
  | .clkStart => true
  | .clkNow => true
  | .clkReset0 => true
  | .clkIsRunning => true
  | .clkWaitTick => true
  | .taskSched _ _ => true
  | .slpTimeout _ => true
  | .slpDuration _ => true
  | .slpUntil _ => true
  | .slpIsTimer => true
  | .slpSetSane _ => true

/-- A command list is legal when its `PC` never wraps: at most 2^30 words (10_state.md R22). -/
def legalLength (l : List Word) : Bool := l.length ≤ 2 ^ 30

/-- Both lists of a client are legal. -/
def ClientLists.wellFormed (c : ClientLists) : Bool := legalLength c.onExpiry && legalLength c.onOther

/-- The legal configurations: the "legal values" column of 00_scope.md section 4. -/
def Params.wellFormed (p : Params) : Bool :=
  (1 ≤ p.minTimeout.toNat)
    && (p.cmpGuard.toNat ≤ p.minTimeout.toNat)
    && (1 ≤ p.hfDelay.toNat)
    && (p.base.toNat % 0x100 == 0)
    && p.client1.wellFormed && p.client2.wellFormed && p.client3.wellFormed
    && legalLength p.task0 && legalLength p.task1 && legalLength p.task2 && legalLength p.task3
    && legalLength p.program

end Sys2Proof
end

