-- ==== Sys2Proof/Machine/Operands.lean ====
section
/-! DEFINITION. What operand fields and times stand for: pool indices, callbacks, codes (10_state.md R35 to R46), and the
arithmetic of times and durations (40_clock.md R106, R112, R114; 41_timer.md R141, R144). -/

namespace Sys2Proof.Machine

/-- The pool timer an `IDX` field names, if it is below `P_N_TIMERS` (30_encoding.md R87). -/
def poolIx? (n : PoolSize) (idx : BitVec 2) : Option PoolIx :=
  if idx = 0 then some .t0
  else if idx = 1 then some .t1
  else if idx = 2 then
    match n with
    | .two => none
    | .three => some .t2
  else none

/-- The pool indices 0..`P_N_TIMERS`-1 in increasing order. -/
def poolIndices : PoolSize → List PoolIx
  | .two => [.t0, .t1]
  | .three => [.t0, .t1, .t2]

/-- Pool timer `i` uses channel `i` (41_timer.md R142). -/
def PoolIx.chan : PoolIx → ChIx
  | .t0 => .ch0
  | .t1 => .ch1
  | .t2 => .ch2

/-- The reason a callback tag stands for (41_timer.md R153, R154). -/
def tagReason : CallbackTag → WakeReason
  | .expiry => .sleepTimerExpired
  | .other => .counterOverflowOrOther

/-- The code of an oscillator's state (10_state.md R39). -/
def OscState.code : OscState → BitVec 2
  | .stopped => 0
  | .starting => 1
  | .running => 2

/-- The number of an interrupt line (60_exceptions.md R244). -/
def lineNumber : Line → BitVec 2
  | .timer => 0
  | .clock => 1
  | .radio => 2
  | .power => 3

/-- The fault codes (60_exceptions.md R241). -/
def FaultCode.code : FaultCode → BitVec 8
  | .none => 0
  | .illegalCommand => 1
  | .badIndex => 2
  | .doubleStart => 3
  | .doubleSchedule => 4
  | .saneTimeout => 5
  | .arbReexpiry => 6
  | .arbClockStartup => 7
  | .lfNotStarted => 8
  | .hfPrecondition => 9
  | .busError => 10
  | .monotonicity => 11
  | .illegalContext => 12

/-- The time `(zext_56(a) << 24) | zext_56(low)` of a tally and a counter value (40_clock.md R106). -/
def time (a : Word) (low : Ticks) : Time := (a.setWidth 56 <<< 24) ||| low.setWidth 56

/-- `clampedDiff(later, earlier)`: the difference, or 0 where it would be negative (40_clock.md R112). -/
def clampedDiff (later earlier : Time) : Time := if earlier ≤ later then later - earlier else 0

/-- `toTicks24(x) = min(x, 0xFFFFFF)` (40_clock.md R114). -/
def toTicks24 (x : Time) : Ticks := if x ≤ 0xFFFFFF then x.setWidth 24 else 0xFFFFFF

/-- What remains of a duration `d` begun at `start` when the time is `n` (42_sleep.md R189, L3). -/
def remaining (d : Ticks) (start n : Time) : Time := clampedDiff (d.setWidth 56) (clampedDiff n start)

/-- Whether a compare write of `v` is uncertain: `1 <= d < P_CMP_GUARD` with `d = v -_24 COUNTER` (41_timer.md R141). -/
def uncertainWrite (p : Params) (v counter : Ticks) : Bool :=
  let d := (v - counter).toNat
  1 ≤ d && d < p.cmpGuard.toNat

/-- The forced-expiry condition `elapsed + P_MIN_TIMEOUT > timeout` with `elapsed = counter -_24 t0`, on unbounded naturals
(41_timer.md R143 S5, R144, 00_scope.md R10). -/
def forcedExpiry (p : Params) (t0 counter timeout : Ticks) : Bool :=
  timeout.toNat < (counter - t0).toNat + p.minTimeout.toNat

/-- The client lists of a callback id 1..3 (00_scope.md section 4). Id 0 is the built-in sleep callback, which runs no list
(42_sleep.md R185). -/
def clientOf (p : Params) (cb : BitVec 2) : ClientLists :=
  if cb = 1 then p.client1 else if cb = 2 then p.client2 else p.client3

/-- The words of a handler program space (20_memory.md R60). -/
def listWords (p : Params) : ListId → List Word
  | .client cb .expiry => (clientOf p cb).onExpiry
  | .client cb .other => (clientOf p cb).onOther
  | .task id => if id = 0 then p.task0 else if id = 1 then p.task1 else if id = 2 then p.task2 else p.task3

end Sys2Proof.Machine
end

