-- ==== Sys2Proof/Machine/Ops.lean ====
section
/-! DEFINITION. The shared operations: the banks of channels and timers, raising a fault (60_exceptions.md R243), the frame
of the executing command list (30_encoding.md R82), the results of a micro-step, interrupt entry and exit
(60_exceptions.md R252, R253). -/

namespace Sys2Proof.Machine

/-- Channel `ch` of the bank. -/
def Channels.get (c : Channels) : ChIx → Channel
  | .ch0 => c.c0
  | .ch1 => c.c1
  | .ch2 => c.c2
  | .ch3 => c.c3

/-- The bank with channel `ch` replaced. -/
def Channels.set (c : Channels) (v : Channel) : ChIx → Channels
  | .ch0 => { c with c0 := v }
  | .ch1 => { c with c1 := v }
  | .ch2 => { c with c2 := v }
  | .ch3 => { c with c3 := v }

/-- Timer `i` of the pool. -/
def Timers.get (t : Timers) : PoolIx → Timer
  | .t0 => t.p0
  | .t1 => t.p1
  | .t2 => t.p2

/-- The pool with timer `i` replaced. -/
def Timers.set (t : Timers) (v : Timer) : PoolIx → Timers
  | .t0 => { t with p0 := v }
  | .t1 => { t with p1 := v }
  | .t2 => { t with p2 := v }

/-- `CC[ch]`, `EVT_CMP[ch]`, `INTEN_CMP[ch]`, `CC_UNCERTAIN[ch]`. -/
def State.chan (s : State) (ch : ChIx) : Channel := s.chans.get ch

/-- `INUSE[i]`, `EXPIRED[i]`, `CBID[i]`. -/
def State.timer (s : State) (i : PoolIx) : Timer := s.timers.get i

/-- `s` with channel `ch` replaced. -/
def State.setChan (s : State) (ch : ChIx) (v : Channel) : State := { s with chans := s.chans.set v ch }

/-- `s` with timer `i` replaced. -/
def State.setTimer (s : State) (i : PoolIx) (v : Timer) : State := { s with timers := s.timers.set v i }

/-- `emit E`: append to the event history (00_scope.md R11, R12). -/
def State.emit (s : State) (e : Event) : State := { s with history := s.history ++ [e] }

/-- TAKING THE EXCEPTION, `raise Fault(code)` (60_exceptions.md R243): the first fault is recorded with its code and its
history entry, a later one changes nothing. Frames, `PC`s, `ISR_ACTIVE` and `FG_WAITING` keep their values, so the list's
`PC` still addresses the command that raised it. There is no handler, no vector and no return from a fault (R240). -/
def State.raiseFault (s : State) (code : FaultCode) : State :=
  if s.fault then s else { s with fault := true, faultCode := code, history := s.history ++ [.fault code] }

/-- `ctx`: `ISR` when the executing list is one a handler invoked, `FG` when it is `P_PROGRAM` (00_scope.md R11). `FG` has
no micro-step while `ISR_ACTIVE = 1` and `ISR` none while it is 0 (R4, R5), so `ISR_ACTIVE` decides. -/
def State.ctx (s : State) : Ctx := if s.isrActive then .isr else .fg

/-- The list stack of `ISR_FRAME` (10_state.md R41), empty where there is no frame. -/
def State.listStack (s : State) : List ListFrame :=
  match s.isrFrame with
  | some f => f.stack
  | none => []

/-- The frame of the command under execution in the executing list (10_state.md R23, R41). -/
def State.frame (s : State) : Option CmdFrame :=
  match s.ctx with
  | .fg => s.fgFrame
  | .isr =>
    match s.listStack with
    | l :: _ => l.frame
    | [] => none

/-- Where command `i` of the executing list stands: its next micro-step if it is under execution, nothing if its next
micro-step is its first (log 12). -/
def State.labelOf (s : State) (i : Instr) : Option Label :=
  match s.frame with
  | some f => if f.cmd = i then some f.label else none
  | none => none

/-- A change of the list a handler is executing, the top of the list stack. -/
def State.mapTop (s : State) (g : ListFrame → ListFrame) : State :=
  match s.isrFrame with
  | some f =>
    match f.stack with
    | l :: rest => { s with isrFrame := some { f with stack := g l :: rest } }
    | [] => s
  | none => s

/-- Keep a command under execution, to go on at its next micro-step (10_state.md R23). -/
def State.hold (s : State) (f : CmdFrame) : State :=
  match s.ctx with
  | .fg => { s with fgFrame := some f }
  | .isr => s.mapTop fun l => { l with frame := some f }

/-- The host's held `CMD` write is taken once `FG` has completed its command (20_memory.md R66; log 6). -/
def State.acceptHeld (s : State) : State := { s with issued := s.issued ++ s.cmdHeld.toList, cmdHeld := none }

/-- `done`: the executing list's `PC` advances by 4 and the command's frame is discarded, in the micro-step that does it
(30_encoding.md R82). In a legal list the sum is at most 4 times the length, so `PC` never wraps (10_state.md R22; log 14). -/
def State.complete (s : State) : State :=
  match s.ctx with
  | .fg => { s with pc := s.pc + 4, fgFrame := none }.acceptHeld
  | .isr => s.mapTop fun l => { l with pc := l.pc + 4, frame := none }

/-- What one micro-step of an operation does: it goes on at the label `l`, or it returns `v` to its caller, or it raises a
fault. In each case `s` holds the effects of the micro-step. -/
inductive Micro (ℓ α : Type) where
  | goto (l : ℓ) (s : State)
  | ret (v : α) (s : State)
  | fault (code : FaultCode) (s : State)

/-- `call OP`: the caller's label around the operation's, and what the caller does in the micro-step in which the
operation returns (00_scope.md R11). A fault ends the caller too (R243). -/
def Micro.call {ℓ μ α β : Type} (m : Micro ℓ α) (into : ℓ → μ) (k : α → State → Micro μ β) : Micro μ β :=
  match m with
  | .goto l s => .goto (into l) s
  | .ret v s => k v s
  | .fault code s => .fault code s

/-- The micro-step of command `i` as a state: the command stays under execution, or it writes its result and is done, or
it raises its fault and does not complete (30_encoding.md R82, 60_exceptions.md R243). -/
def Micro.settle {ℓ α : Type} (m : Micro ℓ α) (i : Instr) (into : ℓ → Label) (result : α → State → State) : State :=
  match m with
  | .goto l s => s.hold { cmd := i, label := into l }
  | .ret v s => (result v s).complete
  | .fault code s => s.raiseFault code

/-- The context check of the six waiting commands, before anything else of their first micro-step (30_encoding.md R88). -/
def foregroundOnly {ℓ α : Type} (s : State) (m : Micro ℓ α) : Micro ℓ α :=
  match s.ctx with
  | .isr => .fault .illegalContext s
  | .fg => m

/-- A single-label command that only writes a result (10_state.md R21). -/
def State.answer (s : State) (v : BitVec 64) : State := { s with res := v }.complete

/-- `zext_64` of a flag. -/
def flag64 (b : Bool) : BitVec 64 := if b then 1 else 0

/-- The first step of a line's handler (60_exceptions.md R252, R255 to R260). -/
def firstStep : Line → HandlerLabel
  | .timer => .ovfCount
  | .clock => .clockLf
  | .radio => .radioPost
  | .power => .powerPost

/-- Interrupt entry (60_exceptions.md R252): one atomic step; nothing of the foreground changes. -/
def State.enter (s : State) (line : Line) : State :=
  { s with
    isrActive := true
    isrFrame := some { line := line, label := firstStep line, handled := [], stack := [] }
    pendTimerSw := if line = .timer then false else s.pendTimerSw
    pendRadio := if line = .radio then false else s.pendRadio
    pendPower := if line = .power then false else s.pendPower
    history := s.history ++ [.isrEntry line] }

/-- Interrupt exit, the return of a handler (60_exceptions.md R253): one atomic step. -/
def State.leave (s : State) : State :=
  { s with isrActive := false, isrFrame := none, evLatch := true, fgWaiting := false }

end Sys2Proof.Machine
end

