-- ==== Sys2Proof/Machine/Flags.lean ====
section
/-! DEFINITION. The block has no flags register. What stands in their place: the interrupt requests computed from events
and enables (60_exceptions.md R245, R246), the enabling conditions of the agents (00_scope.md R4, R5), and the arbitration
table of the wake reason (42_sleep.md R181). -/

namespace Sys2Proof.Machine

/-- `EVT_CMP[ch] and INTEN_CMP[ch]` (R245). -/
def Channel.requests (c : Channel) : Bool := c.evt && c.inten

/-- `TIMER_LEVEL` (R245). -/
def State.timerLevel (s : State) : Bool :=
  (s.evtOvf && s.intenOvf)
    || (s.chans.c0.requests || s.chans.c1.requests || s.chans.c2.requests || s.chans.c3.requests)

/-- `CLOCK_LEVEL` (R246). -/
def State.clockLevel (s : State) : Bool := (s.evtLfStarted && s.intenLf) || (s.evtHfStarted && s.intenHf)

/-- The request of a line (R245). -/
def State.requests (s : State) : Line → Bool
  | .timer => s.pendTimerSw || s.timerLevel
  | .clock => s.clockLevel
  | .radio => s.pendRadio
  | .power => s.pendPower

/-- `IRQ_REQ` (R245). -/
def State.irqReq (s : State) : Bool := s.requests .timer || s.requests .clock || s.requests .radio || s.requests .power

/-- `FG` may take a micro-step, as far as the interrupt side and the wait are concerned (00_scope.md R4); that it has a
command is decided where it fetches. -/
def State.fgMayStep (s : State) : Bool := !s.fault && !s.isrActive && !s.irqReq && !s.fgWaiting

/-- `CNT` has a step (40_clock.md R100, R102). -/
def State.cntMayStep (s : State) : Bool := s.counterRunning && s.lfclk != .stopped

/-- The reasons written through the arbitrated port: the columns of the table (42_sleep.md R181). Cleared and Unknown are
never the new value. -/
inductive Post where
  | sleepTimerExpired
  | counterOverflowOrOther
  | messageReceived
  | brownoutWarning
  | hfClockStarted
  | lfClockStarted
  deriving DecidableEq, Repr

/-- The wake reason a post writes. -/
def Post.reason : Post → WakeReason
  | .sleepTimerExpired => .sleepTimerExpired
  | .counterOverflowOrOther => .counterOverflowOrOther
  | .messageReceived => .messageReceived
  | .brownoutWarning => .brownoutWarning
  | .hfClockStarted => .hfClockStarted
  | .lfClockStarted => .lfClockStarted

/-- The post of the sleep callback with a tag (42_sleep.md R185). -/
def tagPost : CallbackTag → Post
  | .expiry => .sleepTimerExpired
  | .other => .counterOverflowOrOther

/-- The outcome of an arbitrated write: `W`, `K` or `F(code)` (42_sleep.md R181). -/
inductive ArbOutcome where
  | write
  | keep
  | fault (code : FaultCode)
  deriving DecidableEq, Repr

/-- The arbitration table, column by column (42_sleep.md R181, R182). -/
def arbTable (old : WakeReason) : Post → ArbOutcome
  | .sleepTimerExpired =>
    match old with
    | .messageReceived => .keep
    | .sleepTimerExpired => .fault .arbReexpiry
    | .hfClockStarted | .lfClockStarted => .fault .arbClockStartup
    | .cleared | .counterOverflowOrOther | .brownoutWarning | .unknown => .write
  | .counterOverflowOrOther =>
    match old with
    | .cleared => .write
    | .hfClockStarted | .lfClockStarted => .fault .arbClockStartup
    | .messageReceived | .sleepTimerExpired | .counterOverflowOrOther | .brownoutWarning | .unknown => .keep
  | .messageReceived =>
    match old with
    | .messageReceived | .hfClockStarted | .lfClockStarted => .keep
    | .cleared | .sleepTimerExpired | .counterOverflowOrOther | .brownoutWarning | .unknown => .write
  | .brownoutWarning => if old = .cleared then .write else .keep
  | .hfClockStarted => .write
  | .lfClockStarted => .write

/-- `ARB_WRITE(new)`, the arbitrated port, one atomic micro-step (42_sleep.md R183). -/
def arbWrite {ℓ : Type} (new : Post) (s : State) : Micro ℓ Unit :=
  match arbTable s.wake new with
  | .write => .ret () { s with wake := new.reason }
  | .keep => .ret () s
  | .fault code => .fault code s

/-- `CLEAR_WAKE`, the clear port, one atomic micro-step (42_sleep.md R184). -/
def State.clearWake (s : State) : State := { s with wake := .cleared }

end Sys2Proof.Machine
end

