-- ==== Sys2Proof/Machine/Clock.lean ====
section
/-! DEFINITION. The extended clock: the time query `NOW` and the `CLK` commands (40_clock.md R105 to R111). Each meaning is
one micro-step of its command in the executing context (log 12). -/

namespace Sys2Proof.Machine

/-- The monotonicity check and record, in the micro-step where `NOW` returns `t` (40_clock.md R108). -/
def recordNow {ℓ : Type} (t : Time) (s : State) : Micro ℓ Time :=
  if s.cfg.build = .debug ∧ t < s.lastNow then .fault .monotonicity s
  else .ret t { s with lastNow := t }

/-- One micro-step of `NOW`, the double-read time query (40_clock.md R106). -/
def nowStep (l : NowLabel) (s : State) : Micro NowLabel Time :=
  match l with
  | .s1 => .goto (.s2 s.ovf) s
  | .s2 a => .goto (.s3 a s.counter) s
  | .s3 a low => if a = s.ovf then recordNow (time a low) s else .goto .s1 s

/-- The one-time initialisation of the timer pool and the task timer (40_clock.md R105). Timers of an index that is not
below `P_N_TIMERS` are no part of the pool; `CC` registers are not cleared. -/
def State.initPool (s : State) : State :=
  let clear (c : Channel) : Channel := { c with inten := false, evt := false, uncertain := false }
  { s with
    timers :=
      { p0 := .reset
        p1 := .reset
        p2 := if PoolIx.t2 ∈ poolIndices s.cfg.nTimers then .reset else s.timers.p2 }
    chans := { c0 := clear s.chans.c0, c1 := clear s.chans.c1, c2 := clear s.chans.c2, c3 := clear s.chans.c3 }
    taskInUse := false
    taskExpired := false
    taskId := 0
    poolInit := true }

/-- What `CLK.START` does when its check passes (40_clock.md R105). -/
def State.startClock (s : State) : State :=
  let t : State :=
    { s with
      ovf := 0
      lastNow := 0
      evtOvf := false
      evtOvfClrPend := false
      intenOvf := true
      counter := 0
      counterRunning := true }
  if s.poolInit then t else t.initPool

/-- CLK.START (40_clock.md R105): one atomic micro-step. -/
def execClkStart (s : State) : Host.Outcome State Fault Refusal :=
  .next
    (if s.cfg.build = .debug ∧ s.lfclk = .stopped then s.raiseFault .lfNotStarted
     else s.startClock.complete)

/-- CLK.NOW (40_clock.md R107). -/
def execClkNow (s : State) : Host.Outcome State Fault Refusal :=
  let l : NowLabel :=
    match s.labelOf .clkNow with
    | some (.clkNow l) => l
    | _ => .s1
  .next ((nowStep l s).settle .clkNow .clkNow fun t s => { s with res := t.setWidth 64 })

/-- CLK.RESET0 (40_clock.md R109). -/
def execClkReset0 (s : State) : Host.Outcome State Fault Refusal :=
  .next { s with ovf := 0, lastNow := 0 }.complete

/-- CLK.ISRUNNING (40_clock.md R110). -/
def execClkIsRunning (s : State) : Host.Outcome State Fault Refusal :=
  .next (s.answer (flag64 (s.lfclk == .running && s.counterRunning)))

/-- One micro-step of the spin of CLK.WAITTICK; the label is `t0` once S1 has read it (40_clock.md R111). -/
def waitTickStep (t0 : Option Ticks) (s : State) : Micro Ticks Unit :=
  match t0 with
  | none => .goto s.counter s
  | some t0 => if s.counter = t0 then .goto t0 s else .ret () s

/-- CLK.WAITTICK (40_clock.md R111). -/
def execClkWaitTick (s : State) : Host.Outcome State Fault Refusal :=
  let t0 : Option Ticks :=
    match s.labelOf .clkWaitTick with
    | some (.clkWaitTick t0) => some t0
    | _ => none
  .next ((waitTickStep t0 s).settle .clkWaitTick .clkWaitTick fun _ s => s)

end Sys2Proof.Machine
end

