-- ==== Sys2Proof/Machine/Timer.lean ====
section
/-! DEFINITION. The pool timers and the task timer: `ARM`, `STOP` and the `TMR` and `TASK` commands (41_timer.md R141 to
R149, R160, R161). Each meaning is one micro-step of its command in the executing context (log 12). -/

namespace Sys2Proof.Machine

/-- The compare write `CC[ch] <- v`, with `CC_UNCERTAIN[ch]` in the same micro-step (41_timer.md R141). -/
def State.writeCompare (s : State) (ch : ChIx) (v : Ticks) : State :=
  s.setChan ch { s.chan ch with cc := v, uncertain := uncertainWrite s.cfg v s.counter }

/-- `X <- 1` of the commit: `EXPIRED[i]` of the pool timer on the channel, `TASK_EXPIRED` on channel 3
(41_timer.md R143). -/
def State.markExpired (s : State) : ChIx → State
  | .ch0 => s.setTimer .t0 { s.timer .t0 with expired := true }
  | .ch1 => s.setTimer .t1 { s.timer .t1 with expired := true }
  | .ch2 => s.setTimer .t2 { s.timer .t2 with expired := true }
  | .ch3 => { s with taskExpired := true }

/-- The commit S5 of `ARM`, one atomic micro-step (41_timer.md R143). DESIGN CHOICE (log 18): the enable is set as R143 writes it,
with no test of `INUSE`, also where a handler has expired the timer since S1, though R150 says that every rule keeps an enabled
channel's timer in use. -/
def State.commitArm (s : State) (ch : ChIx) (timeout t0 : Ticks) : State :=
  let armed := s.setChan ch { s.chan ch with evt := false, inten := true }
  if forcedExpiry s.cfg t0 s.counter timeout then { armed.markExpired ch with pendTimerSw := true } else armed

/-- One micro-step of `ARM(ch, timeout, X)` (41_timer.md R143). -/
def armStep (ch : ChIx) (timeout : Ticks) (l : ArmLabel) (s : State) : Micro ArmLabel Unit :=
  match l with
  | .now l => (nowStep l s).call .now fun t s => .goto (.compare (t.setWidth 24)) s
  | .compare t0 => .goto (.commit t0) (s.writeCompare ch (t0 + timeout))
  | .commit t0 => .ret () (s.commitArm ch timeout t0)

/-- One micro-step of `STOP(i)` (41_timer.md R147). DESIGN CHOICE (log 18): S3 writes `INUSE` alone, as R147 has it, also where a
callback has armed the timer again since S1, though R150 and R158 say that the enable is then 0. -/
def stopStep (i : PoolIx) (l : StopLabel) (s : State) : Micro StopLabel Unit :=
  match l with
  | .s1 => .goto .s2 (s.setChan i.chan { s.chan i.chan with inten := false })
  | .s2 => .goto .s3 (s.setChan i.chan { s.chan i.chan with evt := false })
  | .s3 => .ret () (s.setTimer i { s.timer i with inUse := false })

/-- S1 of `START_OP(i, cb, timeout)` after its index check: the double-start check, then the timer is taken
(41_timer.md R145). In `Release` a double start returns without effect (60_exceptions.md R242). -/
def startCheck (i : PoolIx) (cb : BitVec 2) (s : State) : Micro ArmLabel Unit :=
  if (s.timer i).inUse then
    match s.cfg.build with
    | .debug => .fault .doubleStart s
    | .release => .ret () s
  else
    .goto (.now .s1)
      ((s.setTimer i { inUse := true, expired := false, cbId := cb }).setChan i.chan
        { s.chan i.chan with inten := false })

/-- The index check of the pool commands, before any state changes (30_encoding.md R87, R89). -/
def withPoolIx {ℓ α : Type} (idx : BitVec 2) (s : State) (m : PoolIx → Micro ℓ α) : Micro ℓ α :=
  match poolIx? s.cfg.nTimers idx with
  | some i => m i
  | none => .fault .badIndex s

/-- TMR.START (41_timer.md R145). -/
def execTmrStart (idx cb : BitVec 2) (timeout : Ticks) (s : State) : Host.Outcome State Fault Refusal :=
  .next
    ((withPoolIx idx s fun i =>
        match s.labelOf (.tmrStart idx cb timeout) with
        | some (.tmrStart l) => armStep i.chan timeout l s
        | _ => startCheck i cb s).settle
      (.tmrStart idx cb timeout) .tmrStart fun _ s => s)

/-- TMR.CANCEL (41_timer.md R146): S1 is the index check alone, S2 to S4 are `STOP(i)`. DESIGN CHOICE (log 31): the event is
cleared also on a never-started timer that a match at 0 has given one. -/
def execTmrCancel (idx : BitVec 2) (s : State) : Host.Outcome State Fault Refusal :=
  .next
    ((withPoolIx idx s fun i =>
        match s.labelOf (.tmrCancel idx) with
        | some (.tmrCancel l) => stopStep i l s
        | _ => .goto .s1 s).settle
      (.tmrCancel idx) .tmrCancel fun _ s => s)

/-- TMR.ISSTARTED (41_timer.md R148). -/
def execTmrIsStarted (idx : BitVec 2) (s : State) : Host.Outcome State Fault Refusal :=
  .next
    (match poolIx? s.cfg.nTimers idx with
     | some i => s.answer (flag64 (s.timer i).inUse)
     | none => s.raiseFault .badIndex)

/-- TMR.ISEXPIRED (41_timer.md R149). -/
def execTmrIsExpired (idx : BitVec 2) (s : State) : Host.Outcome State Fault Refusal :=
  .next
    (match poolIx? s.cfg.nTimers idx with
     | some i => s.answer (flag64 (s.timer i).expired)
     | none => s.raiseFault .badIndex)

/-- S1 of TASK.SCHED: the double-schedule check, then the task timer is taken (41_timer.md R160, R161). -/
def schedCheck (id : BitVec 2) (s : State) : Micro ArmLabel Unit :=
  if s.taskInUse then
    match s.cfg.build with
    | .debug => .fault .doubleSchedule s
    | .release => .ret () s
  else
    .goto (.now .s1)
      ({ s with taskInUse := true, taskId := id, taskExpired := false }.setChan .ch3
        { s.chan .ch3 with inten := false })

/-- TASK.SCHED (41_timer.md R160). -/
def execTaskSched (id : BitVec 2) (duration : Ticks) (s : State) : Host.Outcome State Fault Refusal :=
  .next
    ((match s.labelOf (.taskSched id duration) with
      | some (.taskSched l) => armStep .ch3 duration l s
      | _ => schedCheck id s).settle
      (.taskSched id duration) .taskSched fun _ s => s)

end Sys2Proof.Machine
end

