-- ==== Sys2Proof/Machine/Sleep.lean ====
section
/-! DEFINITION. The sleep arbiter: the wait primitive, the sleep commands, and the commands that read and post the wake
reason (42_sleep.md R185 to R195). Each meaning is one micro-step of its command in the executing context (log 12). -/

namespace Sys2Proof.Machine

/-- One micro-step of `WAIT` (42_sleep.md R186). At S2 `FG` has no step while `FG_WAITING = 1` (log 13). -/
def waitStep (l : WaitLabel) (s : State) : Micro WaitLabel Unit :=
  match l with
  | .s1 =>
    match s.cfg.waitLatch with
    | .latched => if s.evLatch then .ret () { s with evLatch := false } else .goto .s2 { s with fgWaiting := true }
    | .notLatched => .goto .s2 { s with evLatch := false, fgWaiting := true }
  | .s2 => if s.fgWaiting then .goto .s2 s else .ret () { s with evLatch := false }

/-- `SANE_CHECK(t)` (42_sleep.md R188). -/
def saneCheck {ℓ : Type} (t : Ticks) (s : State) : Micro ℓ Ticks :=
  if t ≤ s.sane then .ret t s
  else
    match s.cfg.build with
    | .debug => .fault .saneTimeout s
    | .release => .ret s.sane s

/-- One micro-step of the body of SLP.TIMEOUT from its clear on (42_sleep.md R187). -/
def sleepStep (t : Ticks) (l : SleepLabel) (s : State) : Micro SleepLabel Unit :=
  match l with
  | .clear => .goto .sane s.clearWake
  | .sane => saneCheck t s |>.call id fun t s => .goto (.start t) s
  | .start t => (startCheck .t0 0 s).call (.arm t) fun _ s => .goto (.wait .s1) s
  | .arm t l => (armStep .ch0 t l s).call (.arm t) fun _ s => .goto (.wait .s1) s
  | .wait l => (waitStep l s).call .wait fun _ s => .goto (.stop .s1) s
  | .stop l => (stopStep .t0 l s).call .stop fun _ s => .ret () s

/-- One micro-step of the body of SLP.DURATION after its context check (42_sleep.md R189). DESIGN CHOICE (log 29): the loop ends
at its test with `WAKE = 2` alone, also in the interleavings in which the bound (b) or the `INUSE[0] = 0` of (c) that R196
derives does not hold. DESIGN CHOICE (log 30): the sane check is made on `remaining`, as the pseudocode has it, so a `D > SANE`
raises no SANE_TIMEOUT where the ticks between the two reads of the time bring `remaining` down to `SANE`. DESIGN CHOICE
(log 31): with `D = 0` too the test is on `WAKE` alone, also where the inner start was ignored. -/
def durationStep (d : Ticks) (l : DurationLabel) (s : State) : Micro DurationLabel Unit :=
  match l with
  | .begin l => (nowStep l s).call .begin fun start s => .goto (.again start .s1) s
  | .again start l =>
    (nowStep l s).call (.again start) fun n s => .goto (.sleep start (toTicks24 (remaining d start n)) .clear) s
  | .sleep start t l => (sleepStep t l s).call (.sleep start t) fun _ s => .goto (.test start) s
  | .test start => if s.wake = .sleepTimerExpired then .ret () s else .goto (.again start .s1) s

/-- One micro-step of the loop "wait, then test the wake reason" (42_sleep.md R190, 43_startup.md R224, R226). -/
def untilStep (r : WakeReason) (l : UntilLabel) (s : State) : Micro UntilLabel Unit :=
  match l with
  | .wait l => (waitStep l s).call .wait fun _ s => .goto .test s
  | .test => if s.wake = r then .ret () s else .goto (.wait .s1) s

/-- SLP.TIMEOUT (42_sleep.md R187). -/
def execSlpTimeout (t : Ticks) (s : State) : Host.Outcome State Fault Refusal :=
  let l : SleepLabel :=
    match s.labelOf (.slpTimeout t) with
    | some (.slpTimeout l) => l
    | _ => .clear
  .next ((foregroundOnly s (sleepStep t l s)).settle (.slpTimeout t) .slpTimeout fun _ s => s)

/-- SLP.DURATION (42_sleep.md R189): S1 is the context check alone. -/
def execSlpDuration (d : Ticks) (s : State) : Host.Outcome State Fault Refusal :=
  .next
    ((foregroundOnly s
        (match s.labelOf (.slpDuration d) with
         | some (.slpDuration l) => durationStep d l s
         | _ => .goto (.begin .s1) s)).settle
      (.slpDuration d) .slpDuration fun _ s => s)

/-- SLP.UNTIL (42_sleep.md R190): S1 is the context check alone; `WAKE` is never cleared. -/
def execSlpUntil (r : WakeReason) (s : State) : Host.Outcome State Fault Refusal :=
  .next
    ((foregroundOnly s
        (match s.labelOf (.slpUntil r) with
         | some (.slpUntil l) => untilStep r l s
         | _ => .goto (.wait .s1) s)).settle
      (.slpUntil r) .slpUntil fun _ s => s)

/-- SLP.ISTIMER (42_sleep.md R191). -/
def execSlpIsTimer (s : State) : Host.Outcome State Fault Refusal :=
  .next (s.answer (flag64 (s.wake == .sleepTimerExpired)))

/-- SLP.SETSANE (42_sleep.md R192). -/
def execSlpSetSane (m : Ticks) (s : State) : Host.Outcome State Fault Refusal :=
  .next { s with sane := m }.complete

/-- WAKE.READ (42_sleep.md R193). -/
def execWakeRead (s : State) : Host.Outcome State Fault Refusal :=
  .next (s.answer (s.wake.code.setWidth 64))

/-- A command whose one micro-step is an arbitrated write (42_sleep.md R183). -/
def State.post (s : State) (p : Post) : State :=
  match (arbWrite p s : Micro Empty Unit) with
  | .goto _ s => s
  | .ret _ s => s.complete
  | .fault code s => s.raiseFault code

/-- POST.MSG (42_sleep.md R194). -/
def execPostMsg (s : State) : Host.Outcome State Fault Refusal := .next (s.post .messageReceived)

/-- POST.BROWNOUT (42_sleep.md R195). -/
def execPostBrownout (s : State) : Host.Outcome State Fault Refusal := .next (s.post .brownoutWarning)

end Sys2Proof.Machine
end

