-- ==== Sys2Proof/Machine/Startup.lean ====
section
/-! DEFINITION. The oscillator start-up commands (43_startup.md R222 to R227). Each meaning is one micro-step of its command
in the executing context (log 12). -/

namespace Sys2Proof.Machine

/-- `START_REQ(X)` (43_startup.md R222). -/
def State.startReq (s : State) : Osc → State
  | .lf => if s.lfclk = .stopped then { s with lfclk := .starting } else s
  | .hf => if s.hfclk = .stopped then { s with hfclk := .starting } else s

/-- One micro-step of LF.START after S1 (43_startup.md R224). -/
def lfStep (l : LfLabel) (s : State) : Micro LfLabel Unit :=
  match l with
  | .enable => .goto .request { s with intenLf := true }
  | .request => .goto (.loop (.wait .s1)) (s.startReq .lf)
  | .loop l => (untilStep .lfClockStarted l s).call .loop fun _ s => .goto .disable s
  | .disable => .ret () { s with intenLf := false }

/-- LF.START (43_startup.md R224): S1 checks the context and clears the wake reason. -/
def execLfStart (s : State) : Host.Outcome State Fault Refusal :=
  .next
    ((foregroundOnly s
        (match s.labelOf .lfStart with
         | some (.lfStart l) => lfStep l s
         | _ => .goto .enable s.clearWake)).settle
      .lfStart .lfStart fun _ s => s)

/-- HF.START.DELAY (43_startup.md R225): S1 checks the context and requests the oscillator; the rest is the body of
SLP.DURATION with `P_HF_DELAY`. DESIGN CHOICE (log 30): a `P_HF_DELAY > SANE` faults in `Debug` as that body does, on what
remains of the delay. -/
def execHfStartDelay (s : State) : Host.Outcome State Fault Refusal :=
  .next
    ((foregroundOnly s
        (match s.labelOf .hfStartDelay with
         | some (.hfStartDelay l) => durationStep s.cfg.hfDelay l s
         | _ => .goto (.begin .s1) (s.startReq .hf))).settle
      .hfStartDelay .hfStartDelay fun _ s => s)

/-- The precondition of HF.START.IRQ, checked in `Debug` only (43_startup.md R226 S1, R227). -/
def hfCheck (s : State) : Micro HfIrqLabel Unit :=
  if s.cfg.build = .debug ∧ (s.hfclk = .running ∨ s.evtHfStarted = true) then .fault .hfPrecondition s
  else .goto .clear s

/-- One micro-step of HF.START.IRQ after S1 (43_startup.md R226). DESIGN CHOICE (log 31): in `Release` with a stale event the
clock interrupt comes right after S3, and the wait then is that of 42_sleep.md R186: it returns at once with
`P_WAIT_LATCH = Latched`, and with `NotLatched` it misses that exit and holds until another one. -/
def hfIrqStep (l : HfIrqLabel) (s : State) : Micro HfIrqLabel Unit :=
  match l with
  | .clear => .goto .enable s.clearWake
  | .enable => .goto .request { s with intenHf := true }
  | .request => .goto (.loop (.wait .s1)) (s.startReq .hf)
  | .loop l => (untilStep .hfClockStarted l s).call .loop fun _ s => .goto .disable s
  | .disable => .ret () { s with intenHf := false }

/-- HF.START.IRQ (43_startup.md R226). -/
def execHfStartIrq (s : State) : Host.Outcome State Fault Refusal :=
  .next
    ((foregroundOnly s
        (match s.labelOf .hfStartIrq with
         | some (.hfStartIrq l) => hfIrqStep l s
         | _ => hfCheck s)).settle
      .hfStartIrq .hfStartIrq fun _ s => s)

end Sys2Proof.Machine
end

