-- ==== Sys2Proof/Machine/Dispatch.lean ====
section
/-! DEFINITION. One arm for each command: one micro-step of command `i` in the executing context (log 12). -/

namespace Sys2Proof.Machine

def exec (i : Instr) (s : State) : Host.Outcome State Fault Refusal :=
  match i with
  | .wakeRead => Sys2Proof.Machine.execWakeRead s
  | .postMsg => Sys2Proof.Machine.execPostMsg s
  | .postBrownout => Sys2Proof.Machine.execPostBrownout s
  | .lfStart => Sys2Proof.Machine.execLfStart s
  | .hfStartDelay => Sys2Proof.Machine.execHfStartDelay s
  | .hfStartIrq => Sys2Proof.Machine.execHfStartIrq s
  | .clkStart => Sys2Proof.Machine.execClkStart s
  | .clkNow => Sys2Proof.Machine.execClkNow s
  | .clkReset0 => Sys2Proof.Machine.execClkReset0 s
  | .clkIsRunning => Sys2Proof.Machine.execClkIsRunning s
  | .clkWaitTick => Sys2Proof.Machine.execClkWaitTick s
  | .tmrStart idx cb timeout => Sys2Proof.Machine.execTmrStart idx cb timeout s
  | .tmrCancel idx => Sys2Proof.Machine.execTmrCancel idx s
  | .tmrIsStarted idx => Sys2Proof.Machine.execTmrIsStarted idx s
  | .tmrIsExpired idx => Sys2Proof.Machine.execTmrIsExpired idx s
  | .taskSched id duration => Sys2Proof.Machine.execTaskSched id duration s
  | .slpTimeout t => Sys2Proof.Machine.execSlpTimeout t s
  | .slpDuration d => Sys2Proof.Machine.execSlpDuration d s
  | .slpUntil r => Sys2Proof.Machine.execSlpUntil r s
  | .slpIsTimer => Sys2Proof.Machine.execSlpIsTimer s
  | .slpSetSane m => Sys2Proof.Machine.execSlpSetSane m s

end Sys2Proof.Machine
end

