-- ==== Sys2Proof/Machine/Fetch.lean ====
section
/-! DEFINITION. The command lists and command fetch (20_memory.md R60, R66, R67), and where a word must stand for the next
step to run it. -/

namespace Sys2Proof.Machine

/-- The foreground list: `P_PROGRAM`, then the words issued through `CMD` in issue order (20_memory.md R66; log 5). -/
def State.fgWords (s : State) : List Word := s.cfg.program ++ s.issued

/-- The word at byte offset `pc` of a list, if `pc` is inside it (20_memory.md R67). `pc` is always a multiple of 4
(10_state.md R22; log 23). -/
def wordAt (l : List Word) (pc : Offset) : Option Word := l[pc.toNat / 4]?

/-- What a fetch finds: the list is too long to be legal (R22), `pc` is past its end, or a word. -/
inductive Fetched where
  | tooLong
  | atEnd
  | word (w : Word)
  deriving DecidableEq, Repr

/-- Command fetch (20_memory.md R67; 10_state.md R22). -/
def fetch (l : List Word) (pc : Offset) : Fetched :=
  if 2 ^ 30 < l.length then .tooLong
  else
    match wordAt l pc with
    | some w => .word w
    | none => .atEnd

/-- A list with the word `w` at index `k`, filled up with zero words where it was shorter. -/
def placeAt (l : List Word) (k : Nat) (w : Word) : List Word :=
  l.take k ++ List.replicate (k - l.length) 0 ++ w :: l.drop (k + 1)

/-- No line requests an interrupt: the pends and the enables are cleared where a line requested (R245, R246). -/
def State.quiet (s : State) : State :=
  if s.irqReq then
    { s with
      pendTimerSw := false
      pendRadio := false
      pendPower := false
      intenOvf := false
      intenLf := false
      intenHf := false
      chans :=
        { c0 := { s.chans.c0 with inten := false }
          c1 := { s.chans.c1 with inten := false }
          c2 := { s.chans.c2 with inten := false }
          c3 := { s.chans.c3 with inten := false } } }
  else s

/-- `s` with `w` as the next command of `FG`, and the next move `FG`'s (log 4, log 26). -/
def State.withNextCommand (s : State) (w : Word) : State :=
  { s.quiet with
    cfg := { s.cfg with program := placeAt s.fgWords (s.pc.toNat / 4) w }
    issued := []
    fgFrame := none
    fgWaiting := false
    isrActive := false
    isrFrame := none
    fault := false
    sched := .fg :: s.sched }

end Sys2Proof.Machine
end

