-- ==== Sys2Proof/Machine/Handlers.lean ====
section
/-! DEFINITION. The fixed handlers of the four interrupt lines (60_exceptions.md R255 to R260; 41_timer.md R151 to R157,
R162, R163), one micro-step at a time. -/

namespace Sys2Proof.Machine

/-- Go on in the handler at `l`, as far as it keeps `f`. -/
def State.atHandler (s : State) (f : IsrFrame) (l : HandlerLabel) : State :=
  { s with isrFrame := some { f with label := l } }

/-- After the scan of an index: the next one, then the collection of `H` (41_timer.md R151, R152). -/
def scanNext : List PoolIx → HandlerLabel
  | [] => .poolCollect
  | todo => .poolScan todo

/-- After the handling of an index: the next one, then the secondary path (41_timer.md R152, R153). -/
def handleNext : List PoolIx → HandlerLabel
  | [] => .secondary
  | todo => .poolHandle todo

/-- Whether index `j` is found expired (41_timer.md R152). -/
def State.isDue (s : State) (j : PoolIx) : Bool := (s.timer j).expired && (s.timer j).inUse

/-- `H`, in increasing order (41_timer.md R152). -/
def State.dueSet (s : State) : List PoolIx := (poolIndices s.cfg.nTimers).filter s.isDue

/-- `S_j` of `POOL_SCAN` (41_timer.md R151): the test is on the event flag alone. -/
def State.scanIndex (s : State) (j : PoolIx) : State :=
  if (s.chan j.chan).evt then
    (s.setChan j.chan { s.chan j.chan with inten := false, evt := false }).setTimer j
      { s.timer j with expired := true }
  else s

/-- The handler invokes a command list and goes on at `next` when it returns (60_exceptions.md R261). -/
def State.pushList (s : State) (f : IsrFrame) (next : HandlerLabel) (list : ListId) : State :=
  { s with isrFrame := some { f with label := next, stack := { list := list, pc := 0, frame := none } :: f.stack } }

/-- `DISPATCH(j, cb, tag)` (41_timer.md R155, R157): the history entry, then the sleep callback's arbitrated write
(42_sleep.md R185) or the client's list. -/
def dispatch (f : IsrFrame) (next : HandlerLabel) (j : PoolIx) (cb : BitVec 2) (tag : CallbackTag) (s : State) : State :=
  let e := s.emit (.callback j cb tag)
  if cb = 0 then
    match (arbWrite (tagPost tag) e : Micro Empty Unit) with
    | .goto _ s => s
    | .ret _ s => s.atHandler f next
    | .fault code s => s.raiseFault code
  else e.pushList f next (.client cb tag)

/-- An arbitrated write of a handler (60_exceptions.md R258 to R260). -/
def postFrom (f : IsrFrame) (next : HandlerLabel) (p : Post) (s : State) : State :=
  match (arbWrite p s : Micro Empty Unit) with
  | .goto _ s => s
  | .ret _ s => s.atHandler f next
  | .fault code s => s.raiseFault code

/-- `OVF_PART` S1, one atomic read-modify-write (60_exceptions.md R256, 40_clock.md R104). -/
def State.countOverflow (s : State) : State :=
  if s.evtOvf && !s.evtOvfClrPend then { s with ovf := s.ovf + 1, evtOvfClrPend := true } else s

/-- `TASK_SCAN` S1 (41_timer.md R162). -/
def State.scanTask (s : State) : State :=
  if (s.chan .ch3).evt then
    { s.setChan .ch3 { s.chan .ch3 with inten := false, evt := false } with taskExpired := true }
  else s

/-- `TASK_HANDLE` S1 (41_timer.md R163): a due task is run and S2 follows it; otherwise the handler ends. -/
def handleTask (f : IsrFrame) (s : State) : State :=
  if s.taskExpired && s.taskInUse then
    ((s.setChan .ch3 { s.chan .ch3 with inten := false, evt := false }).emit (.taskRun s.taskId)).pushList f .taskDone
      (.task s.taskId)
  else s.atHandler f .exit

/-- One micro-step of a handler at its label, while no command list of it is executing (R255, R258 to R260). -/
def handlerStep (f : IsrFrame) (s : State) : State :=
  match f.label with
  | .ovfCount => s.countOverflow.atHandler f .ovfSpin
  | .ovfSpin => if s.evtOvfClrPend then s else s.atHandler f (scanNext (poolIndices s.cfg.nTimers))
  | .poolScan [] => s.atHandler f .poolCollect
  | .poolScan (j :: todo) => (s.scanIndex j).atHandler f (scanNext todo)
  | .poolCollect => s.atHandler { f with handled := s.dueSet } (handleNext s.dueSet)
  | .poolHandle [] => s.atHandler f .secondary
  | .poolHandle (j :: todo) =>
    if s.isDue j then s.atHandler f (.expireStop j (s.timer j).cbId .s1 todo) else s.atHandler f (handleNext todo)
  | .expireStop j cb l todo =>
    match stopStep j l s with
    | .goto l s => s.atHandler f (.expireStop j cb l todo)
    | .ret _ s => s.atHandler f (.expireDispatch j cb todo)
    | .fault code s => s.raiseFault code
  | .expireDispatch j cb todo => dispatch f (handleNext todo) j cb .expiry s
  | .secondary =>
    if .t0 ∉ f.handled ∧ (s.timer .t0).inUse then dispatch f .taskScan .t0 (s.timer .t0).cbId .other s
    else s.atHandler f .taskScan
  | .taskScan => s.scanTask.atHandler f .taskHandle
  | .taskHandle => handleTask f s
  | .taskDone => { s with taskInUse := false }.atHandler f .exit
  | .clockLf =>
    let lf := s.evtLfStarted && s.intenLf
    { s with evtLfStarted := if lf then false else s.evtLfStarted }.atHandler f (.clockLfPost lf)
  | .clockLfPost lf => if lf then postFrom f .clockHf .lfClockStarted s else s.atHandler f .clockHf
  | .clockHf =>
    let hf := s.evtHfStarted && s.intenHf
    { s with evtHfStarted := if hf then false else s.evtHfStarted }.atHandler f (.clockHfPost hf)
  | .clockHfPost hf => if hf then postFrom f .exit .hfClockStarted s else s.atHandler f .exit
  | .radioPost => postFrom f .exit .messageReceived s
  | .powerPost => postFrom f .exit .brownoutWarning s
  | .exit => s.leave

end Sys2Proof.Machine
end

