-- ==== Sys2Proof/Machine/Hardware.lean ====
section
/-! DEFINITION. The agents that step on their own: the counter with its compare logic, the settle step, the oscillators and
the external sources (40_clock.md R100 to R103, 41_timer.md R140, 43_startup.md R221, 60_exceptions.md R250). Each is one
atomic step; where the agent has no step the state stays as it is (log 2). -/

namespace Sys2Proof.Machine

/-- The compare logic of one channel in a tick to the new counter value `c` (41_timer.md R140). `fire` is the draw of an
uncertain match. -/
def Channel.onTick (ch : Channel) (c : Ticks) (fire : Bool) : Channel :=
  if ch.cc = c then
    if ch.uncertain then { ch with evt := ch.evt || fire, uncertain := false } else { ch with evt := true }
  else ch

/-- A counter tick, where `CNT` has one (40_clock.md R100, R101): the counter, the overflow event with a pending clear
superseded, the compare logic with the new value. -/
def State.tick (s : State) (d : Draws) : State :=
  let c := s.counter + 1
  { s with
    counter := c
    evtOvf := if c = 0 then true else s.evtOvf
    evtOvfClrPend := if c = 0 then false else s.evtOvfClrPend
    chans :=
      { c0 := s.chans.c0.onTick c d.fire0
        c1 := s.chans.c1.onTick c d.fire1
        c2 := s.chans.c2.onTick c d.fire2
        c3 := s.chans.c3.onTick c d.fire3 } }

/-- A move of `CNT` (40_clock.md R100, R102). -/
def cntStep (d : Draws) (s : State) : State := if s.cntMayStep then s.tick d else s

/-- A move of `SETTLE` (40_clock.md R103). -/
def settleStep (s : State) : State :=
  if s.evtOvfClrPend then { s with evtOvf := false, evtOvfClrPend := false } else s

/-- A move of `OSC` (43_startup.md R221). -/
def oscStep (x : Osc) (s : State) : State :=
  match x with
  | .lf => if s.lfclk = .starting then { s with lfclk := .running, evtLfStarted := true } else s
  | .hf => if s.hfclk = .starting then { s with hfclk := .running, evtHfStarted := true } else s

/-- The radio posts a received message; a second event merges with a pending one (60_exceptions.md R247, R250). -/
def envRadioStep (s : State) : State := { s with pendRadio := true }

/-- The power monitor posts a brownout warning (60_exceptions.md R247, R250). -/
def envPowerStep (s : State) : State := { s with pendPower := true }

/-- A spurious wake, with `P_SPURIOUS_WAKE` and while `FG` waits (42_sleep.md R186). In a faulted block R186 and R5 admit it
and 60_exceptions.md R243 keeps `FG_WAITING`: there it takes place as the free value `faultedWake` says (log 28). -/
def envWakeStep (s : State) : State :=
  if s.cfg.spuriousWake && s.fgWaiting && (!s.fault || s.cfg.faultedWake) then { s with fgWaiting := false } else s

end Sys2Proof.Machine
end

