-- ==== Sys2Proof/Machine/Window.lean ====
section
/-! DEFINITION. The register window and the bus accesses of the host (10_state.md R44 to R59, 20_memory.md R61 to R66). -/

namespace Sys2Proof.Machine

/-- The 21 registers of the window, in the order of their offsets (R44). -/
inductive Reg where
  | cmd
  | status
  | faultCode
  | resLo
  | resHi
  | ovf
  | counter
  | wake
  | sane
  | tflags
  | events
  | inten
  | cc0
  | cc1
  | cc2
  | cc3
  | clkStat
  | irqStat
  | lastNowLo
  | lastNowHi
  | config
  deriving DecidableEq, Repr

/-- The register at a word offset of the window; offsets 0x54 and above are unmapped (R44). -/
def regAt (off : Nat) : Option Reg :=
  match off with
  | 0x00 => some .cmd
  | 0x04 => some .status
  | 0x08 => some .faultCode
  | 0x0C => some .resLo
  | 0x10 => some .resHi
  | 0x14 => some .ovf
  | 0x18 => some .counter
  | 0x1C => some .wake
  | 0x20 => some .sane
  | 0x24 => some .tflags
  | 0x28 => some .events
  | 0x2C => some .inten
  | 0x30 => some .cc0
  | 0x34 => some .cc1
  | 0x38 => some .cc2
  | 0x3C => some .cc3
  | 0x40 => some .clkStat
  | 0x44 => some .irqStat
  | 0x48 => some .lastNowLo
  | 0x4C => some .lastNowHi
  | 0x50 => some .config
  | _ => none

/-- One bit of a register. -/
def bit (b : Bool) : BitVec 1 := BitVec.ofBool b

/-- `STATUS.BUSY`: a foreground command is under execution (R23, R45). -/
def State.busy (s : State) : Bool := s.fgFrame.isSome

/-- `STATUS` (R45). -/
def State.statusReg (s : State) : Word :=
  0#27 ++ bit s.evLatch ++ bit s.isrActive ++ bit s.fault ++ bit s.fgWaiting ++ bit s.busy

/-- Timer `i` as `TFLAGS` shows it: 0 where the index is not below `P_N_TIMERS` (R52). -/
def State.shownTimer (s : State) (i : PoolIx) : Timer :=
  if i ∈ poolIndices s.cfg.nTimers then s.timer i else .reset

/-- `TFLAGS` (R52). -/
def State.tflagsReg (s : State) : Word :=
  0#16 ++ s.taskId
    ++ (s.shownTimer .t2).cbId ++ (s.shownTimer .t1).cbId ++ (s.shownTimer .t0).cbId
    ++ bit s.taskExpired
    ++ bit (s.shownTimer .t2).expired ++ bit (s.shownTimer .t1).expired ++ bit (s.shownTimer .t0).expired
    ++ bit s.taskInUse
    ++ bit (s.shownTimer .t2).inUse ++ bit (s.shownTimer .t1).inUse ++ bit (s.shownTimer .t0).inUse

/-- `EVENTS` (R53). -/
def State.eventsReg (s : State) : Word :=
  0#18 ++ bit s.evtHfStarted ++ bit s.evtLfStarted
    ++ bit s.chans.c3.uncertain ++ bit s.chans.c2.uncertain ++ bit s.chans.c1.uncertain ++ bit s.chans.c0.uncertain
    ++ bit s.chans.c3.evt ++ bit s.chans.c2.evt ++ bit s.chans.c1.evt ++ bit s.chans.c0.evt
    ++ 0#2 ++ bit s.evtOvfClrPend ++ bit s.evtOvf

/-- `INTEN` (R54). -/
def State.intenReg (s : State) : Word :=
  0#22 ++ bit s.intenHf ++ bit s.intenLf
    ++ bit s.chans.c3.inten ++ bit s.chans.c2.inten ++ bit s.chans.c1.inten ++ bit s.chans.c0.inten
    ++ 0#3 ++ bit s.intenOvf

/-- `CLKSTAT` (R56). -/
def State.clkStatReg (s : State) : Word :=
  0#26 ++ bit s.poolInit ++ bit s.counterRunning ++ s.hfclk.code ++ s.lfclk.code

/-- The line `ISR` is serving while `ISR_ACTIVE = 1`, 0 when idle (R57). -/
def State.servedLine (s : State) : BitVec 2 :=
  match s.isrActive, s.isrFrame with
  | true, some f => lineNumber f.line
  | _, _ => 0

/-- `IRQSTAT` (R57). -/
def State.irqStatReg (s : State) : Word :=
  0#22 ++ s.servedLine ++ 0#3 ++ bit s.clockLevel ++ bit s.pendPower ++ bit s.pendRadio ++ bit s.timerLevel
    ++ bit s.pendTimerSw

/-- `P_N_TIMERS` as a number. -/
def poolSizeCode : PoolSize → BitVec 2
  | .two => 2
  | .three => 3

/-- `CONFIG` (R59). -/
def configReg (p : Params) : Word :=
  0#8 ++ p.cmpGuard ++ p.minTimeout ++ 0#3 ++ bit p.spuriousWake ++ bit (p.waitLatch == .latched)
    ++ bit (p.build == .debug) ++ poolSizeCode p.nTimers

/-- The value of a readable register (R45 to R59); `CMD` cannot be read (R65). -/
def State.regValue (s : State) : Reg → Option Word
  | .cmd => none
  | .status => some s.statusReg
  | .faultCode => some (s.faultCode.code.setWidth 32)
  | .resLo => some (s.res.extractLsb' 0 32)
  | .resHi => some (s.res.extractLsb' 32 32)
  | .ovf => some s.ovf
  | .counter => some (s.counter.setWidth 32)
  | .wake => some (s.wake.code.setWidth 32)
  | .sane => some (s.sane.setWidth 32)
  | .tflags => some s.tflagsReg
  | .events => some s.eventsReg
  | .inten => some s.intenReg
  | .cc0 => some (s.chans.c0.cc.setWidth 32)
  | .cc1 => some (s.chans.c1.cc.setWidth 32)
  | .cc2 => some (s.chans.c2.cc.setWidth 32)
  | .cc3 => some (s.chans.c3.cc.setWidth 32)
  | .clkStat => some s.clkStatReg
  | .irqStat => some s.irqStatReg
  | .lastNowLo => some (s.lastNow.extractLsb' 0 32)
  | .lastNowHi => some ((s.lastNow.extractLsb' 32 24).setWidth 32)
  | .config => some (configReg s.cfg)

/-- The register an access of `n` bytes at `addr` reaches: 4 bytes wide, 4-byte aligned and mapped (R62, R65). An address
off the window is an unmapped offset (log 8). -/
def State.target (s : State) (addr : Word) (n : Nat) : Option Reg :=
  let off := (addr - s.cfg.base).toNat
  if n = 4 ∧ off % 4 = 0 then regAt off else none

/-- `MemRead(addr, n)`: the value read, or nothing where the access is refused (R62, R64, R65). A read changes no state; the
value goes to the host, which is outside the block (log 7). -/
def State.memRead (s : State) (addr : Word) (n : Nat) : Option Word := (s.target addr n).bind s.regValue

/-- Byte `k` of a register as a host sees it, little-endian (R63). -/
def windowByte (v : Word) (k : Nat) : BitVec 8 := v.extractLsb' (8 * k) 8

/-- A host read (R62, R64, R65). -/
def hostReadStep (addr : Word) (n : Nat) (s : State) : State :=
  match s.memRead addr n with
  | some _ => s
  | none => s.raiseFault .busError

/-- A `CMD` write of the word `w` (R66): it continues the foreground program; while `FG` is busy it is held. After a fault it
is accepted and never executed (60_exceptions.md R243). While a write is held the host is stalled (log 6). -/
def State.issue (s : State) (w : Word) : State :=
  if s.busy && !s.fault then
    match s.cmdHeld with
    | none => { s with cmdHeld := some w }
    | some _ => s
  else { s with issued := s.issued ++ [w] }

/-- A host write (R62, R65, R66). -/
def hostWriteStep (addr : Word) (n : Nat) (v : Word) (s : State) : State :=
  match s.target addr n with
  | some .cmd => s.issue v
  | _ => s.raiseFault .busError

end Sys2Proof.Machine
end

