-- ==== Sys2Proof/Machine/Sequencer.lean ====
section
/-! DEFINITION. The two sequencers, `FG` and `ISR`, and one move of any agent (00_scope.md R2 to R7). -/

namespace Sys2Proof.Machine

/-- The first micro-step of the command whose word is `w`: decode, then the command's own first micro-step
(30_encoding.md R81, R89). -/
def runWord (w : Word) (s : State) : Host.Outcome State Fault Refusal :=
  match decode w with
  | .ok i => exec i s
  | .error _ => .next (s.raiseFault .illegalCommand)

/-- A move of `FG` (00_scope.md R4): the next micro-step of the command under execution, or the fetch and first micro-step
of the next command. -/
def fgStep (s : State) : Host.Outcome State Fault Refusal :=
  if s.fgMayStep then
    match s.fgFrame with
    | some f => exec f.cmd s
    | none =>
      match fetch s.fgWords s.pc with
      | .tooLong => .refused .listTooLong
      | .atEnd => .next s
      | .word w => runWord w s
  else .next s

/-- The list at the top of the stack has ended: it is popped, and the handler step that invoked it continues
(60_exceptions.md R261; log 10). -/
def State.popList (s : State) (f : IsrFrame) : State := { s with isrFrame := some { f with stack := f.stack.tail } }

/-- A micro-step of the command list a handler is executing (60_exceptions.md R261). -/
def listStep (f : IsrFrame) (l : ListFrame) (s : State) : Host.Outcome State Fault Refusal :=
  match l.frame with
  | some c => exec c.cmd s
  | none =>
    match fetch (listWords s.cfg l.list) l.pc with
    | .tooLong => .refused .listTooLong
    | .atEnd => .next (s.popList f)
    | .word w => runWord w s

/-- A move of `ISR` (00_scope.md R5, 60_exceptions.md R251 to R254): an idle `ISR` enters the drawn line if it requests; an
active one takes the next micro-step of its handler or of the list the handler invoked. -/
def isrStep (line : Line) (s : State) : Host.Outcome State Fault Refusal :=
  if s.fault then .next s
  else if s.isrActive then
    match s.isrFrame with
    | none => .next s
    | some f =>
      match f.stack with
      | [] => .next (handlerStep f s)
      | l :: _ => listStep f l s
  else if s.requests line then .next (s.enter line)
  else .next s

/-- One move: one atomic micro-step of one agent (00_scope.md R2, R3). -/
def moveStep (m : Move) (s : State) : Host.Outcome State Fault Refusal :=
  match m with
  | .fg => fgStep s
  | .isr line => isrStep line s
  | .cnt d => .next (cntStep d s)
  | .settle => .next (settleStep s)
  | .osc x => .next (oscStep x s)
  | .envRadio => .next (envRadioStep s)
  | .envPower => .next (envPowerStep s)
  | .envWake => .next (envWakeStep s)
  | .hostRead addr n => .next (hostReadStep addr n s)
  | .hostWrite addr n v => .next (hostWriteStep addr n v s)

/-- The move that comes next: the head of the schedule, and a free value where the schedule is empty (log 1). -/
def State.nextMove (s : State) : Move :=
  match s.sched with
  | m :: _ => m
  | [] => Config.freeMove s.draws

/-- `s` with its next move taken from the schedule (log 1). -/
def State.takeMove (s : State) : State :=
  match s.sched with
  | _ :: rest => { s with sched := rest }
  | [] => { s with draws := s.draws + 1 }

end Sys2Proof.Machine
end

