-- ==== Sys2Proof/Machine/Step.lean ====
section
/-! DEFINITION. One step of the machine: the next move, which one agent makes (00_scope.md R3; log 1). -/

namespace Sys2Proof.Machine

/-- One step: one atomic micro-step of the agent whose move comes next (00_scope.md R2, R3). -/
def step (s : State) : Host.Outcome State Fault Refusal := moveStep s.nextMove s.takeMove

/-- `s` with the instruction of `nbits` bits `w` as `FG`'s next command, and everything else that the very next step needs
to fetch and run it (log 4, log 26). -/
def State.withFetchWord (s : State) (nbits w : Nat) : State :=
  s.withNextCommand (BitVec.ofNat 32 (w % 2 ^ nbits))

end Sys2Proof.Machine
end

