-- ==== Sys2Proof/Safety.lean ====
section
/-! DEFINITION. What claims speak of: the end of a run and fair runs (00_scope.md R6, R8), the invariants of the machine, and
a command's micro-steps with no other agent between them. -/

namespace Sys2Proof.Machine

/-- The end of a run (00_scope.md R8). DESIGN CHOICE (log 27): R8 speaks of the length of `P_PROGRAM`; where the host issues
commands through `CMD`, the length is that of `P_PROGRAM` with the words issued so far, so a run may be at an end between two
host writes and go on after the second, and the state right after reset with an empty program is at an end. -/
def State.ended (s : State) : Bool :=
  !s.fault && s.fgFrame.isNone && (s.pc.toNat == 4 * s.fgWords.length) && !s.isrActive && !s.fgWaiting && !s.irqReq

/-- `FG` has a command to execute (00_scope.md R4). -/
def State.hasCommand (s : State) : Bool := s.fgFrame.isSome || (wordAt s.fgWords s.pc).isSome

/-- `n` micro-steps of command `i` with no step of another agent between them. -/
def execTimes : Nat → Instr → State → Host.Outcome State Fault Refusal
  | 0, _, s => .next s
  | n + 1, i, s =>
    match exec i s with
    | .next t => execTimes n i t
    | .fault r => .fault r
    | .refused r => .refused r

/-- Some list is executing, and its next micro-step is the first of a command: `FG` between two commands, or a list a
handler invoked between two commands. -/
def State.atCommandStart (s : State) : Bool := s.frame.isNone && (s.ctx == .fg || !s.listStack.isEmpty)

/-- The executing list has command `i` under execution at `l`. -/
def State.at (s : State) (i : Instr) (l : Label) : Bool := s.frame == some { cmd := i, label := l }

/-- The six commands that wait and are legal in the foreground only (30_encoding.md R88). -/
def waitsFor : Instr → Bool
  | .slpTimeout _ | .slpDuration _ | .slpUntil _ | .lfStart | .hfStartDelay | .hfStartIrq => true
  | _ => false

/-- The six query commands, which alone write `RES` (10_state.md R21). -/
def isQuery : Instr → Bool
  | .clkNow | .clkIsRunning | .tmrIsStarted _ | .tmrIsExpired _ | .slpIsTimer | .wakeRead => true
  | _ => false

/-- The five commands that arm a timer (41_timer.md R143, 42_sleep.md R187, R189, 43_startup.md R225). -/
def armsATimer : Instr → Bool
  | .tmrStart _ _ _ | .taskSched _ _ | .slpTimeout _ | .slpDuration _ | .hfStartDelay => true
  | _ => false

/-- The label is one of the command's own. -/
def Label.belongsTo : Label → Instr → Bool
  | .clkNow _, .clkNow => true
  | .clkWaitTick _, .clkWaitTick => true
  | .tmrStart _, .tmrStart _ _ _ => true
  | .tmrCancel _, .tmrCancel _ => true
  | .taskSched _, .taskSched _ _ => true
  | .slpTimeout _, .slpTimeout _ => true
  | .slpDuration _, .slpDuration _ => true
  | .slpUntil _, .slpUntil _ => true
  | .lfStart _, .lfStart => true
  | .hfStartDelay _, .hfStartDelay => true
  | .hfStartIrq _, .hfStartIrq => true
  | _, _ => false

/-- The body of SLP.TIMEOUT stands at S2 of `WAIT`. -/
def SleepLabel.inWait : SleepLabel → Bool
  | .wait .s2 => true
  | _ => false

/-- The body of SLP.DURATION stands at S2 of `WAIT`. -/
def DurationLabel.inWait : DurationLabel → Bool
  | .sleep _ _ l => l.inWait
  | _ => false

/-- The loop of SLP.UNTIL stands at S2 of `WAIT`. -/
def UntilLabel.inWait : UntilLabel → Bool
  | .wait .s2 => true
  | _ => false

/-- The command stands at S2 of `WAIT` (42_sleep.md R186). -/
def Label.inWait : Label → Bool
  | .slpTimeout l => l.inWait
  | .slpDuration l => l.inWait
  | .hfStartDelay l => l.inWait
  | .slpUntil l => l.inWait
  | .lfStart (.loop l) => l.inWait
  | .hfStartIrq (.loop l) => l.inWait
  | _ => false

/-- A command under execution is the one its list's word at `pc` decodes to, and stands at a label of its own
(10_state.md R23, 30_encoding.md R81). -/
def frameFits (words : List Word) (pc : Offset) (f : CmdFrame) : Bool :=
  f.label.belongsTo f.cmd &&
    match wordAt words pc with
    | some w => (decode w).toOption == some f.cmd
    | none => false

/-- The foreground sequencer: `PC` a multiple of 4 (R67), a fitting frame, a held `CMD` write only while busy (R66), waiting
only at S2 of `WAIT` (R23, R186). -/
def State.fgFits (s : State) : Bool :=
  s.pc.toNat % 4 == 0
    && (match s.fgFrame with
        | some f => frameFits s.fgWords s.pc f && (!s.fgWaiting || f.label.inWait)
        | none => !s.fgWaiting && s.cmdHeld.isNone)

/-- A list a handler is executing: `PC` a multiple of 4, and no waiting command under execution (30_encoding.md R88). -/
def listFits (p : Params) (l : ListFrame) : Bool :=
  l.pc.toNat % 4 == 0
    && (match l.frame with
        | some f => frameFits (listWords p l.list) l.pc f && !waitsFor f.cmd
        | none => true)

/-- The interrupt sequencer: a frame exactly while `ISR_ACTIVE = 1`, at most one list on its stack (60_exceptions.md R252,
R253, R261). -/
def State.isrFits (s : State) : Bool :=
  match s.isrFrame with
  | some f => s.isrActive && f.stack.length ≤ 1 && f.stack.all (listFits s.cfg)
  | none => !s.isrActive

/-- `FAULT_CODE` is 0 exactly while `FAULT = 0` (60_exceptions.md R241, R243). -/
def State.faultFits (s : State) : Bool := (s.faultCode == .none) == !s.fault

/-- A "started" event is pending only of a running oscillator (43_startup.md R221, R227). -/
def State.oscFits (s : State) : Bool :=
  (!s.evtLfStarted || s.lfclk == .running) && (!s.evtHfStarted || s.hfclk == .running)

/-- A clear is pending only of a set overflow event (10_state.md R26). -/
def State.overflowFits (s : State) : Bool := !s.evtOvfClrPend || s.evtOvf

/-- The counter runs, the overflow interrupt is armed and the pool is initialised together: all from the first
`CLK.START` on (40_clock.md R105, 10_state.md R25, R27, R34). -/
def State.startFits (s : State) : Bool := (s.counterRunning == s.intenOvf) && (s.intenOvf == s.poolInit)

/-- The invariant of the machine. -/
def State.Inv (s : State) : Prop :=
  s.fgFits = true ∧ s.isrFits = true ∧ s.faultFits = true ∧ s.oscFits = true ∧ s.overflowFits = true
    ∧ s.startFits = true ∧ s.wake ≠ .unknown

/-- The pool invariant R150 of 41_timer.md claims: an enabled channel belongs to a timer in use. The rules it is derived from
do not give it (log 18). -/
def State.enabledInUse (s : State) : Bool :=
  (!s.chans.c0.inten || s.timers.p0.inUse) && (!s.chans.c1.inten || s.timers.p1.inUse)
    && (!s.chans.c2.inten || s.timers.p2.inUse) && (!s.chans.c3.inten || s.taskInUse)

/-- The timer on a channel is in use (41_timer.md R142, R150). -/
def State.chanInUse (s : State) (ch : ChIx) : Bool :=
  match ch with
  | .ch0 => s.timers.p0.inUse
  | .ch1 => s.timers.p1.inUse
  | .ch2 => s.timers.p2.inUse
  | .ch3 => s.taskInUse

/-- The body of SLP.TIMEOUT stands at the commit of its arm. -/
def SleepLabel.commits : SleepLabel → Bool
  | .arm _ (.commit _) => true
  | _ => false

/-- The body of SLP.TIMEOUT stands at the last micro-step of its stop. -/
def SleepLabel.frees : SleepLabel → Bool
  | .stop .s3 => true
  | _ => false

/-- The channel whose arm the command commits in its next micro-step (41_timer.md R143 S5). -/
def CmdFrame.commits (n : PoolSize) (f : CmdFrame) : Option ChIx :=
  match f.cmd, f.label with
  | .tmrStart idx _ _, .tmrStart (.commit _) => (poolIx? n idx).map PoolIx.chan
  | .taskSched _ _, .taskSched (.commit _) => some .ch3
  | .slpTimeout _, .slpTimeout l => if l.commits then some .ch0 else none
  | .slpDuration _, .slpDuration (.sleep _ _ l) => if l.commits then some .ch0 else none
  | .hfStartDelay, .hfStartDelay (.sleep _ _ l) => if l.commits then some .ch0 else none
  | _, _ => none

/-- The timer that the command frees in its next micro-step (41_timer.md R147 S3). -/
def CmdFrame.frees (n : PoolSize) (f : CmdFrame) : Option PoolIx :=
  match f.cmd, f.label with
  | .tmrCancel idx, .tmrCancel .s3 => poolIx? n idx
  | .slpTimeout _, .slpTimeout l => if l.frees then some .t0 else none
  | .slpDuration _, .slpDuration (.sleep _ _ l) => if l.frees then some .t0 else none
  | .hfStartDelay, .hfStartDelay (.sleep _ _ l) => if l.frees then some .t0 else none
  | _, _ => none

/-- The executing list's command stands before the commit of an arm whose timer is no longer in use, or before the last
micro-step of a stop of a timer whose channel is enabled again; or the handler does so before the last micro-step of an expiry's
stop or the release of the task timer. In a run only steps of another agent, or of a list invoked, between the first
micro-step of the operation and this one bring it about (41_timer.md R150, R158; log 18). -/
def State.overtaken (s : State) : Bool :=
  match s.frame with
  | some f =>
    (match f.commits s.cfg.nTimers with
     | some ch => !s.chanInUse ch
     | none => false)
      || (match f.frees s.cfg.nTimers with
          | some i => (s.chan i.chan).inten
          | none => false)
  | none =>
    match s.isrFrame with
    | some f =>
      f.stack.isEmpty
        && match f.label with
           | .expireStop j _ .s3 _ => (s.chan j.chan).inten
           | .taskDone => (s.chan .ch3).inten
           | _ => false
    | none => false

/-- A must-be-zero field of R85 is not zero, group by group (30_encoding.md R85). -/
def breaksReserved (w : Word) : Bool :=
  let op := (fieldOp w).toNat
  if op == 0 then fieldImm w != 0
  else if op ≤ 5 || op == 14 then fieldIdx w != 0 || fieldCb w != 0 || fieldImm w != 0
  else if op == 7 || op == 8 || op == 9 then fieldCb w != 0 || fieldImm w != 0
  else if op == 10 then fieldIdx w != 0
  else if op == 11 || op == 12 || op == 15 then fieldIdx w != 0 || fieldCb w != 0
  else if op == 13 then fieldIdx w != 0 || fieldCb w != 0 || (fieldImm w).toNat / 8 != 0
  else false

/-- The command of the list a handler is executing: the one under execution, or the next one (60_exceptions.md R261). -/
def State.listCommand (s : State) : Option Instr :=
  match s.listStack with
  | [] => none
  | l :: _ =>
    match l.frame with
    | some f => some f.cmd
    | none =>
      match fetch (listWords s.cfg l.list) l.pc with
      | .word w => (decode w).toOption
      | _ => none

/-- The foreground command: the one under execution, or the next one (00_scope.md R4, 20_memory.md R67). -/
def State.fgCommand (s : State) : Option Instr :=
  match s.fgFrame with
  | some f => some f.cmd
  | none =>
    match fetch s.fgWords s.pc with
    | .word w => (decode w).toOption
    | _ => none

/-- The command whose micro-step the next step is, if it is one of a command. -/
def State.nextCommand (s : State) : Option Instr :=
  match s.nextMove with
  | .fg => if s.fgMayStep then s.fgCommand else none
  | .isr _ => if !s.fault && s.isrActive then s.listCommand else none
  | _ => none

/-- The next step is a micro-step of the interrupt sequencer's handler `f` at `l`, with no command list on its stack. -/
def State.handlerNext (s : State) (f : IsrFrame) (l : HandlerLabel) : Prop :=
  (∃ line, s.nextMove = .isr line) ∧ s.fault = false ∧ s.isrActive = true ∧ s.isrFrame = some f ∧ f.label = l
    ∧ f.stack = []

/-- The label of `NOW` at which the body of SLP.TIMEOUT stands, if it stands in its arm's time query. -/
def SleepLabel.query : SleepLabel → Option NowLabel
  | .arm _ (.now l) => some l
  | _ => none

/-- The label of `NOW` at which the body of SLP.DURATION stands, if it stands in a time query. -/
def DurationLabel.query : DurationLabel → Option NowLabel
  | .begin l => some l
  | .again _ l => some l
  | .sleep _ _ l => l.query
  | .test _ => none

/-- The label of `NOW` at which a command stands, if it stands in a time query: CLK.NOW, the arm of TMR.START, TASK.SCHED and
the sleep commands, and the times of SLP.DURATION and HF.START.DELAY (40_clock.md R106). -/
def Label.query : Label → Option NowLabel
  | .clkNow l => some l
  | .tmrStart (.now l) => some l
  | .taskSched (.now l) => some l
  | .slpTimeout l => l.query
  | .slpDuration l => l.query
  | .hfStartDelay l => l.query
  | _ => none

/-- The label of `NOW` at which the foreground command stands, if it stands in a time query. -/
def State.query (s : State) : Option NowLabel :=
  match s.fgFrame with
  | some f => f.label.query
  | none => none

/-- The foreground time query in progress, of whichever command, is not torn: its tally is not above the present one, and
where it is the present one the counter value read lies behind the present one or a wrap is still to be counted
(40_clock.md R106, R116). -/
def State.nowFits (s : State) : Bool :=
  match s.query with
  | some (.s2 a) => a.toNat ≤ s.ovf.toNat
  | some (.s3 a low) => a.toNat ≤ s.ovf.toNat && (a != s.ovf || low ≤ s.counter || (s.evtOvf && !s.evtOvfClrPend))
  | _ => true

/-- `r` is an infinite run: every state steps to the next. -/
def IsRun (r : Nat → State) : Prop := ∀ k, step (r k) = .next (r (k + 1))

/-- An agent that is enabled from some point of the run on makes a move after that point. -/
def FairTo (enabled : State → Bool) (moves : State → Move → Bool) (r : Nat → State) : Prop :=
  ∀ k, (∀ j, k ≤ j → enabled (r j) = true) → ∃ j, k ≤ j ∧ moves (r j) (r j).nextMove = true

/-- The run is weakly fair: the assumptions (a) to (d) of 00_scope.md R6, and none for `ENV` or the bus host. No statement
about one step rests on it (log 21). -/
def FairRun (r : Nat → State) : Prop :=
  FairTo State.cntMayStep (fun _ m => match m with | .cnt _ => true | _ => false) r
    ∧ FairTo State.evtOvfClrPend (fun _ m => m == .settle) r
    ∧ FairTo (fun s => s.lfclk == .starting) (fun _ m => m == .osc .lf) r
    ∧ FairTo (fun s => s.hfclk == .starting) (fun _ m => m == .osc .hf) r
    ∧ FairTo (fun s => s.fgMayStep && s.hasCommand) (fun _ m => m == .fg) r
    ∧ FairTo (fun s => !s.fault && (s.isrActive || s.irqReq))
        (fun s m => match m with | .isr line => s.isrActive || s.requests line | _ => false) r

end Sys2Proof.Machine
end

