-- ==== Sys2Proof/Certificates/Slice0/Obligations.lean ====
section
/-! DEFINITION. The statements about the model, for the provers. A command's statement gives its encoding and each of its
micro-steps as an equation `exec i s = .next …`, so it says also what stays: every field the right side does not name.
`s.frame = none` says that the executing list is between two commands, `s.at i l = true` that it has command `i` under
execution at `l`; `hold` and `complete` are the subject of `MicroStepHoldsCompletesOrFaults`. -/

open Sys2Proof Sys2Proof.Machine

/-! ## Encoding, fetch, the step -/

/-- The worked encodings of 30_encoding.md, and words of the families it has none for, decode as R83 and R84 say. -/
def Obligations.DecodesSampleWords : Prop :=
  decode 0x10000000 = .ok .clkStart
    ∧ decode 0x61000064 = .ok (.tmrStart 0 1 100)
    ∧ decode 0x66FFFFFF = .ok (.tmrStart 1 2 0xFFFFFF)
    ∧ decode 0x78000000 = .ok (.tmrCancel 2)
    ∧ decode 0xA3000005 = .ok (.taskSched 3 5)
    ∧ decode 0xB0000032 = .ok (.slpTimeout 50)
    ∧ decode 0xD0000005 = .ok (.slpUntil .hfClockStarted)
    ∧ decode 0xF00003E8 = .ok (.slpSetSane 1000)
    ∧ decode 0x02000000 = .ok .postMsg
    ∧ decode 0x04000000 = .ok .lfStart
    ∧ decode 0x00000000 = .error .zeroWord

/-- R91, R81: the word of every command decodes to that command, with every operand at every value its field holds. -/
def Obligations.DecodeOfEncode : Prop := ∀ i : Instr, decode (encode i) = .ok i

/-- R91, R85: a word that decodes is the word of its command, so no two words mean the same command. -/
def Obligations.EncodeOfDecode : Prop := ∀ (w : Word) (i : Instr), decode w = .ok i → encode i = w

/-- R81, R84: a word decodes exactly if it selects a row of the opcode map; the row is one and is its command's. -/
def Obligations.DecodeSelectsExactlyOneRow : Prop :=
  (∀ w : Word, (∃ i, decode w = .ok i) ↔ ∃ r ∈ opcodeMap, r.selects w = true)
    ∧ (∀ (w : Word) (r q : Row), r ∈ opcodeMap → q ∈ opcodeMap → r.selects w = true → q.selects w = true → r = q)
    ∧ (∀ (w : Word) (i : Instr), decode w = .ok i → ∃ r ∈ opcodeMap, r.selects w = true ∧ r.mnemonic = i.mnemonic)

/-- R86: the all-zero word, `OP = 0` with `SUB` in 7..15, and every word that breaks R85 raise ILLEGAL_COMMAND at decode, in
either context and either build; every other word is a command. -/
def Obligations.IllegalWordRaisesFault : Prop :=
  (∀ w : Word, (∃ i, decode w = .ok i) ↔
    ¬(w = 0 ∨ (fieldOp w = 0 ∧ 7 ≤ (fieldSub w).toNat) ∨ breaksReserved w = true))
  ∧ ∀ (s : State) (w : Word),
    (w = 0 ∨ (fieldOp w = 0 ∧ 7 ≤ (fieldSub w).toNat) ∨ breaksReserved w = true) →
    (s.nextMove = .fg → s.fgMayStep = true → s.fgFrame = none → fetch s.fgWords s.pc = .word w →
      step s = .next { s.takeMove with
        fault := true, faultCode := .illegalCommand, history := s.history ++ [.fault .illegalCommand] })
    ∧ (∀ line f l rest, s.nextMove = .isr line → s.fault = false → s.isrActive = true → s.isrFrame = some f →
        f.stack = l :: rest → l.frame = none → fetch (listWords s.cfg l.list) l.pc = .word w →
        step s = .next { s.takeMove with
          fault := true, faultCode := .illegalCommand, history := s.history ++ [.fault .illegalCommand] })

/-- R4, R60, R67, R81, R261: which words each command list holds; and a step of `FG`, or of a list a handler runs, runs the
command under execution, or the command that the word at the list's `PC` decodes to; the only other change is that the move is
taken from the schedule (log 1). That the words issued through `CMD` follow `P_PROGRAM` is the model's (log 5). -/
def Obligations.StepRunsTheDecodedCommand : Prop :=
  (∀ s : State, s.fgWords = s.cfg.program ++ s.issued)
  ∧ (∀ p : Params,
      listWords p (.client 1 .expiry) = p.client1.onExpiry ∧ listWords p (.client 1 .other) = p.client1.onOther
      ∧ listWords p (.client 2 .expiry) = p.client2.onExpiry ∧ listWords p (.client 2 .other) = p.client2.onOther
      ∧ listWords p (.client 3 .expiry) = p.client3.onExpiry ∧ listWords p (.client 3 .other) = p.client3.onOther
      ∧ listWords p (.task 0) = p.task0 ∧ listWords p (.task 1) = p.task1 ∧ listWords p (.task 2) = p.task2
      ∧ listWords p (.task 3) = p.task3)
  ∧ (∀ (s : State) (f : CmdFrame), s.nextMove = .fg → s.fgMayStep = true → s.fgFrame = some f →
    step s = exec f.cmd s.takeMove)
  ∧ (∀ (s : State) (w : Word) (i : Instr), s.nextMove = .fg → s.fgMayStep = true → s.fgFrame = none →
      (s.cfg.program ++ s.issued).length ≤ 2 ^ 30 → (s.cfg.program ++ s.issued)[s.pc.toNat / 4]? = some w →
      decode w = .ok i → step s = exec i s.takeMove)
  ∧ (∀ (s : State) (line : Line) (f : IsrFrame) (l : ListFrame) (rest : List ListFrame) (c : CmdFrame),
      s.nextMove = .isr line → s.fault = false → s.isrActive = true → s.isrFrame = some f → f.stack = l :: rest →
      l.frame = some c → step s = exec c.cmd s.takeMove)
  ∧ (∀ (s : State) (line : Line) (f : IsrFrame) (l : ListFrame) (rest : List ListFrame) (w : Word) (i : Instr),
      s.nextMove = .isr line → s.fault = false → s.isrActive = true → s.isrFrame = some f → f.stack = l :: rest →
      l.frame = none → (listWords s.cfg l.list).length ≤ 2 ^ 30 →
      (listWords s.cfg l.list)[l.pc.toNat / 4]? = some w → decode w = .ok i → step s = exec i s.takeMove)

/-- R4, R6: a move of `FG` does nothing while the block is faulted, a handler is active, an interrupt is requested or `FG`
waits, and when `PC` is past the end of the program. -/
def Obligations.ForegroundIsHeldBack : Prop :=
  ∀ s : State, s.nextMove = .fg →
    (s.fault = true ∨ s.isrActive = true ∨ s.irqReq = true ∨ s.fgWaiting = true
      ∨ (s.fgFrame = none ∧ s.fgWords.length ≤ s.pc.toNat / 4 ∧ s.fgWords.length ≤ 2 ^ 30)) →
    step s = .next s.takeMove

/-- R7: in a faulted block `FG` and `ISR` take no further step, `FAULT` and `FAULT_CODE` never change again, and the state is
not final. -/
def Obligations.FaultedBlockStaysStopped : Prop :=
  ∀ s : State, s.fault = true →
    s.ended = false
    ∧ ((s.nextMove = .fg ∨ ∃ line, s.nextMove = .isr line) → step s = .next s.takeMove)
    ∧ ∀ t, step s = .next t → t.fault = true ∧ t.faultCode = s.faultCode ∧ t.history = s.history

/-- R82: `done` advances the executing list's `PC` by 4 and discards the command's frame; a command that raises a fault does
not complete. Every micro-step of a command keeps it under execution, completes it, or faults. In the foreground the write
that the host holds is taken with the completion (R66; log 6). -/
def Obligations.MicroStepHoldsCompletesOrFaults : Prop :=
  (∀ s : State, s.isrActive = false →
    s.complete = { s with pc := s.pc + 4, fgFrame := none, issued := s.issued ++ s.cmdHeld.toList, cmdHeld := none }
    ∧ ∀ c, s.hold c = { s with fgFrame := some c })
  ∧ (∀ (s : State) (g : IsrFrame) (l : ListFrame) (rest : List ListFrame), s.isrActive = true → s.isrFrame = some g →
      g.stack = l :: rest →
      s.complete = { s with isrFrame := some { g with stack := { l with pc := l.pc + 4, frame := none } :: rest } }
      ∧ ∀ c, s.hold c = { s with isrFrame := some { g with stack := { l with frame := some c } :: rest } })
  ∧ (∀ (i : Instr) (s t : State), s.isrActive = false → exec i s = .next t →
      t.isrFrame = s.isrFrame
      ∧ ((t.pc = s.pc + 4 ∧ t.fgFrame = none) ∨ (t.pc = s.pc ∧ ∃ l, t.fgFrame = some ⟨i, l⟩ ∧ l.belongsTo i = true)
          ∨ (t.pc = s.pc ∧ t.fgFrame = s.fgFrame ∧ t.fault = true)))
  ∧ (∀ (i : Instr) (s t : State) (g : IsrFrame) (l : ListFrame) (rest : List ListFrame), s.isrActive = true →
      s.isrFrame = some g → g.stack = l :: rest → exec i s = .next t →
      t.pc = s.pc ∧ t.fgFrame = s.fgFrame
      ∧ (t.isrFrame = some { g with stack := { l with pc := l.pc + 4, frame := none } :: rest }
          ∨ (∃ b, b.belongsTo i = true
              ∧ t.isrFrame = some { g with stack := { l with frame := some ⟨i, b⟩ } :: rest })
          ∨ (t.isrFrame = s.isrFrame ∧ t.fault = true)))

/-! ## The extended clock -/

/-- R105: CLK.START, in either context. -/
def Obligations.ClkStartRestartsTheClock : Prop :=
  encode .clkStart = 0x10000000
  ∧ (∀ s : State, s.cfg.build = .debug → s.lfclk = .stopped → exec .clkStart s = .next (s.raiseFault .lfNotStarted))
  ∧ (∀ s : State, (s.cfg.build = .release ∨ s.lfclk ≠ .stopped) → s.poolInit = true →
      exec .clkStart s = .next
        { s with
          ovf := 0, lastNow := 0, evtOvf := false, evtOvfClrPend := false, intenOvf := true
          counter := 0, counterRunning := true }.complete)
  ∧ (∀ s : State, (s.cfg.build = .release ∨ s.lfclk ≠ .stopped) → s.poolInit = false →
      exec .clkStart s = .next
        { s with
          ovf := 0, lastNow := 0, evtOvf := false, evtOvfClrPend := false, intenOvf := true
          counter := 0, counterRunning := true
          timers :=
            { p0 := ⟨false, false, 0⟩
              p1 := ⟨false, false, 0⟩
              p2 := match s.cfg.nTimers with
                    | .two => s.timers.p2
                    | .three => ⟨false, false, 0⟩ }
          chans :=
            { c0 := ⟨s.chans.c0.cc, false, false, false⟩
              c1 := ⟨s.chans.c1.cc, false, false, false⟩
              c2 := ⟨s.chans.c2.cc, false, false, false⟩
              c3 := ⟨s.chans.c3.cc, false, false, false⟩ }
          taskInUse := false, taskExpired := false, taskId := 0, poolInit := true }.complete)

/-- R106, R107: CLK.NOW, micro-step by micro-step and as a whole where no other agent steps in between, in either context.
Where `NOW` returns less than `LAST_NOW` a `Debug` build faults (R108). -/
def Obligations.ClkNowReadsTheTimeTwice : Prop :=
  encode .clkNow = 0x20000000
  ∧ (∀ (a : Word) (low : Ticks), (time a low).toNat = a.toNat * 2 ^ 24 + low.toNat)
  ∧ (∀ s : State, (s.frame = none ∨ s.at .clkNow (.clkNow .s1) = true) →
      exec .clkNow s = .next (s.hold ⟨.clkNow, .clkNow (.s2 s.ovf)⟩))
  ∧ (∀ (s : State) (a : Word), s.at .clkNow (.clkNow (.s2 a)) = true →
      exec .clkNow s = .next (s.hold ⟨.clkNow, .clkNow (.s3 a s.counter)⟩))
  ∧ (∀ (s : State) (a : Word) (low : Ticks), s.at .clkNow (.clkNow (.s3 a low)) = true →
      (a ≠ s.ovf → exec .clkNow s = .next (s.hold ⟨.clkNow, .clkNow .s1⟩))
      ∧ (a = s.ovf → s.cfg.build = .debug → time a low < s.lastNow →
          exec .clkNow s = .next (s.raiseFault .monotonicity))
      ∧ (a = s.ovf → (s.cfg.build = .release ∨ s.lastNow ≤ time a low) →
          exec .clkNow s = .next { s with lastNow := time a low, res := (time a low).setWidth 64 }.complete))
  ∧ (∀ s : State, s.atCommandStart = true → (s.cfg.build = .release ∨ s.lastNow ≤ time s.ovf s.counter) →
      execTimes 3 .clkNow s = .next
        { s with lastNow := time s.ovf s.counter, res := (time s.ovf s.counter).setWidth 64 }.complete)

/-- R109, R110: CLK.RESET0 and CLK.ISRUNNING, in either context. -/
def Obligations.ClkReset0AndClkIsRunning : Prop :=
  encode .clkReset0 = 0x30000000 ∧ encode .clkIsRunning = 0x40000000
  ∧ (∀ s : State, exec .clkReset0 s = .next { s with ovf := 0, lastNow := 0 }.complete)
  ∧ (∀ s : State, s.lfclk = .running → s.counterRunning = true →
      exec .clkIsRunning s = .next { s with res := 1 }.complete)
  ∧ (∀ s : State, (s.lfclk ≠ .running ∨ s.counterRunning = false) →
      exec .clkIsRunning s = .next { s with res := 0 }.complete)

/-- R111: CLK.WAITTICK spins until the counter is seen to have changed, in either context. -/
def Obligations.ClkWaitTickSpins : Prop :=
  encode .clkWaitTick = 0x50000000
  ∧ (∀ s : State, s.frame = none → exec .clkWaitTick s = .next (s.hold ⟨.clkWaitTick, .clkWaitTick s.counter⟩))
  ∧ (∀ (s : State) (t0 : Ticks), s.at .clkWaitTick (.clkWaitTick t0) = true →
      (s.counter = t0 → exec .clkWaitTick s = .next (s.hold ⟨.clkWaitTick, .clkWaitTick t0⟩))
      ∧ (s.counter ≠ t0 → exec .clkWaitTick s = .next s.complete))

/-- R112, R114: the difference of two times never wraps, and a duration saturates at 0xFFFFFF. -/
def Obligations.DurationArithmetic : Prop :=
  (∀ later earlier : Time,
    (clampedDiff later earlier).toNat = if earlier.toNat ≤ later.toNat then later.toNat - earlier.toNat else 0)
  ∧ (∀ x : Time, (toTicks24 x).toNat = min x.toNat 0xFFFFFF)

/-! ## Timers -/

/-- R143, R141: the micro-steps of `ARM`: the time query, the compare write with its uncertainty, the commit with its forced
expiry. The step after the query starts from the low 24 bits of the time. -/
def Obligations.ArmMicroSteps : Prop :=
  (∀ (ch : ChIx) (timeout : Ticks) (s : State),
    armStep ch timeout (.now .s1) s = .goto (.now (.s2 s.ovf)) s)
  ∧ (∀ (ch : ChIx) (timeout : Ticks) (s : State) (a : Word),
      armStep ch timeout (.now (.s2 a)) s = .goto (.now (.s3 a s.counter)) s)
  ∧ (∀ (ch : ChIx) (timeout : Ticks) (s : State) (a : Word) (low : Ticks),
      (a ≠ s.ovf → armStep ch timeout (.now (.s3 a low)) s = .goto (.now .s1) s)
      ∧ (a = s.ovf → s.cfg.build = .debug → time a low < s.lastNow →
          armStep ch timeout (.now (.s3 a low)) s = .fault .monotonicity s)
      ∧ (a = s.ovf → (s.cfg.build = .release ∨ s.lastNow ≤ time a low) →
          armStep ch timeout (.now (.s3 a low)) s = .goto (.compare low) { s with lastNow := time a low }))
  ∧ (∀ (ch : ChIx) (timeout : Ticks) (s : State) (t0 : Ticks),
      armStep ch timeout (.compare t0) s =
        .goto (.commit t0)
          (s.setChan ch
            { s.chan ch with
              cc := t0 + timeout
              uncertain := decide (1 ≤ (t0 + timeout - s.counter).toNat
                ∧ (t0 + timeout - s.counter).toNat < s.cfg.cmpGuard.toNat) }))
  ∧ (∀ (ch : ChIx) (timeout : Ticks) (s : State) (t0 : Ticks),
      ((s.counter - t0).toNat + s.cfg.minTimeout.toNat ≤ timeout.toNat →
        armStep ch timeout (.commit t0) s =
          .ret () (s.setChan ch { s.chan ch with evt := false, inten := true }))
      ∧ (timeout.toNat < (s.counter - t0).toNat + s.cfg.minTimeout.toNat →
          (∀ i : PoolIx, i.chan = ch →
            armStep ch timeout (.commit t0) s =
              .ret ()
                (({ s with pendTimerSw := true }.setChan ch { s.chan ch with evt := false, inten := true }).setTimer i
                  { s.timer i with expired := true }))
          ∧ (ch = .ch3 →
              armStep ch timeout (.commit t0) s =
                .ret ()
                  ({ s with pendTimerSw := true, taskExpired := true }.setChan ch
                    { s.chan ch with evt := false, inten := true }))))

/-- R145: TMR.START from its first micro-step on, in either context. -/
def Obligations.TmrStartTakesAndArmsItsTimer : Prop :=
  (∀ (idx cb : BitVec 2) (timeout : Ticks),
    (encode (.tmrStart idx cb timeout)).toNat = 0x60000000 + idx.toNat * 2 ^ 26 + cb.toNat * 2 ^ 24 + timeout.toNat)
  ∧ (∀ (s : State) (idx cb : BitVec 2) (timeout : Ticks), poolIx? s.cfg.nTimers idx = none →
      exec (.tmrStart idx cb timeout) s = .next (s.raiseFault .badIndex))
  ∧ ∀ (s : State) (idx cb : BitVec 2) (timeout : Ticks) (i : PoolIx), poolIx? s.cfg.nTimers idx = some i →
    (s.frame = none → (s.timer i).inUse = true → s.cfg.build = .debug →
      exec (.tmrStart idx cb timeout) s = .next (s.raiseFault .doubleStart))
    ∧ (s.frame = none → (s.timer i).inUse = true → s.cfg.build = .release →
      exec (.tmrStart idx cb timeout) s = .next s.complete)
    ∧ (s.frame = none → (s.timer i).inUse = false →
      exec (.tmrStart idx cb timeout) s = .next
        (((s.setTimer i { inUse := true, expired := false, cbId := cb }).setChan i.chan
          { s.chan i.chan with inten := false }).hold ⟨.tmrStart idx cb timeout, .tmrStart (.now .s1)⟩))
    ∧ (∀ l, s.at (.tmrStart idx cb timeout) (.tmrStart l) = true →
      exec (.tmrStart idx cb timeout) s = .next
        (match armStep i.chan timeout l s with
         | .goto k t => t.hold ⟨.tmrStart idx cb timeout, .tmrStart k⟩
         | .ret _ t => t.complete
         | .fault c t => t.raiseFault c))
    ∧ (∀ t0, s.at (.tmrStart idx cb timeout) (.tmrStart (.commit t0)) = true →
      (s.counter - t0).toNat + s.cfg.minTimeout.toNat ≤ timeout.toNat →
      exec (.tmrStart idx cb timeout) s =
        .next (s.setChan i.chan { s.chan i.chan with evt := false, inten := true }).complete)

/-- R145, R143: TMR.START as a whole where no other agent steps in between. No tick falls into the arm then, so the expiry is
forced exactly if `P_MIN_TIMEOUT > timeout`. -/
def Obligations.TmrStartUninterrupted : Prop :=
  ∀ (s : State) (idx cb : BitVec 2) (timeout : Ticks) (i : PoolIx), poolIx? s.cfg.nTimers idx = some i →
    s.atCommandStart = true → (s.timer i).inUse = false →
    (s.cfg.build = .release ∨ s.lastNow ≤ time s.ovf s.counter) →
    execTimes 6 (.tmrStart idx cb timeout) s = .next
      (({ s with
          lastNow := time s.ovf s.counter
          pendTimerSw := s.pendTimerSw || decide (timeout.toNat < s.cfg.minTimeout.toNat) }.setTimer i
            { inUse := true, expired := decide (timeout.toNat < s.cfg.minTimeout.toNat), cbId := cb }).setChan i.chan
          { cc := s.counter + timeout
            evt := false
            inten := true
            uncertain := decide (1 ≤ timeout.toNat ∧ timeout.toNat < s.cfg.cmpGuard.toNat) }).complete

/-- R146, R147: TMR.CANCEL, micro-step by micro-step and as a whole, in either context. -/
def Obligations.TmrCancelStopsItsTimer : Prop :=
  (∀ idx : BitVec 2, (encode (.tmrCancel idx)).toNat = 0x70000000 + idx.toNat * 2 ^ 26)
  ∧ (∀ (s : State) (idx : BitVec 2), poolIx? s.cfg.nTimers idx = none →
      exec (.tmrCancel idx) s = .next (s.raiseFault .badIndex))
  ∧ ∀ (s : State) (idx : BitVec 2) (i : PoolIx), poolIx? s.cfg.nTimers idx = some i →
    (s.frame = none → exec (.tmrCancel idx) s = .next (s.hold ⟨.tmrCancel idx, .tmrCancel .s1⟩))
    ∧ (s.at (.tmrCancel idx) (.tmrCancel .s1) = true →
      exec (.tmrCancel idx) s =
        .next ((s.setChan i.chan { s.chan i.chan with inten := false }).hold ⟨.tmrCancel idx, .tmrCancel .s2⟩))
    ∧ (s.at (.tmrCancel idx) (.tmrCancel .s2) = true →
      exec (.tmrCancel idx) s =
        .next ((s.setChan i.chan { s.chan i.chan with evt := false }).hold ⟨.tmrCancel idx, .tmrCancel .s3⟩))
    ∧ (s.at (.tmrCancel idx) (.tmrCancel .s3) = true →
      exec (.tmrCancel idx) s = .next (s.setTimer i { s.timer i with inUse := false }).complete)
    ∧ (s.atCommandStart = true →
      execTimes 4 (.tmrCancel idx) s = .next
        ((s.setChan i.chan { s.chan i.chan with inten := false, evt := false }).setTimer i
          { s.timer i with inUse := false }).complete)

/-- R148, R149: the pool queries, in either context, with the index check of R87. -/
def Obligations.PoolQueriesReadTheTimer : Prop :=
  (∀ idx : BitVec 2, (encode (.tmrIsStarted idx)).toNat = 0x80000000 + idx.toNat * 2 ^ 26)
  ∧ (∀ idx : BitVec 2, (encode (.tmrIsExpired idx)).toNat = 0x90000000 + idx.toNat * 2 ^ 26)
  ∧ (∀ (s : State) (idx : BitVec 2) (i : PoolIx), poolIx? s.cfg.nTimers idx = some i →
      exec (.tmrIsStarted idx) s = .next { s with res := if (s.timer i).inUse then 1 else 0 }.complete
      ∧ exec (.tmrIsExpired idx) s = .next { s with res := if (s.timer i).expired then 1 else 0 }.complete)
  ∧ (∀ (s : State) (idx : BitVec 2), poolIx? s.cfg.nTimers idx = none →
      exec (.tmrIsStarted idx) s = .next (s.raiseFault .badIndex)
      ∧ exec (.tmrIsExpired idx) s = .next (s.raiseFault .badIndex))

/-- R87: a pool command with `IDX >= P_N_TIMERS` raises BAD_INDEX before any state changes, in either context; an index below
`P_N_TIMERS` names the timer of that number, which has the channel of that number (R142). -/
def Obligations.BadIndexRaisesFault : Prop :=
  (∀ (n : PoolSize) (idx : BitVec 2),
    poolIx? n idx =
      (match idx.toNat with
       | 0 => some .t0
       | 1 => some .t1
       | 2 => (match n with
               | .two => none
               | .three => some .t2)
       | _ => none))
  ∧ (PoolIx.t0.chan = .ch0 ∧ PoolIx.t1.chan = .ch1 ∧ PoolIx.t2.chan = .ch2)
  ∧ ∀ (s : State) (idx : BitVec 2),
    ((s.cfg.nTimers = .two ∧ 2 ≤ idx.toNat) ∨ (s.cfg.nTimers = .three ∧ idx.toNat = 3)) →
    (∀ cb timeout, exec (.tmrStart idx cb timeout) s = .next (s.raiseFault .badIndex))
    ∧ exec (.tmrCancel idx) s = .next (s.raiseFault .badIndex)
    ∧ exec (.tmrIsStarted idx) s = .next (s.raiseFault .badIndex)
    ∧ exec (.tmrIsExpired idx) s = .next (s.raiseFault .badIndex)

/-- R160: TASK.SCHED from its first micro-step on and as a whole where no other agent steps in between, in either context. -/
def Obligations.TaskSchedTakesAndArmsTheTaskTimer : Prop :=
  (∀ (id : BitVec 2) (d : Ticks), (encode (.taskSched id d)).toNat = 0xA0000000 + id.toNat * 2 ^ 24 + d.toNat)
  ∧ ∀ (s : State) (id : BitVec 2) (d : Ticks),
    (s.frame = none → s.taskInUse = true → s.cfg.build = .debug →
      exec (.taskSched id d) s = .next (s.raiseFault .doubleSchedule))
    ∧ (s.frame = none → s.taskInUse = true → s.cfg.build = .release → exec (.taskSched id d) s = .next s.complete)
    ∧ (s.frame = none → s.taskInUse = false →
      exec (.taskSched id d) s = .next
        (({ s with taskInUse := true, taskId := id, taskExpired := false }.setChan .ch3
          { s.chan .ch3 with inten := false }).hold ⟨.taskSched id d, .taskSched (.now .s1)⟩))
    ∧ (∀ l, s.at (.taskSched id d) (.taskSched l) = true →
      exec (.taskSched id d) s = .next
        (match armStep .ch3 d l s with
         | .goto k t => t.hold ⟨.taskSched id d, .taskSched k⟩
         | .ret _ t => t.complete
         | .fault c t => t.raiseFault c))
    ∧ (∀ t0, s.at (.taskSched id d) (.taskSched (.commit t0)) = true →
      (s.counter - t0).toNat + s.cfg.minTimeout.toNat ≤ d.toNat →
      exec (.taskSched id d) s = .next (s.setChan .ch3 { s.chan .ch3 with evt := false, inten := true }).complete)
    ∧ (s.atCommandStart = true → s.taskInUse = false →
      (s.cfg.build = .release ∨ s.lastNow ≤ time s.ovf s.counter) →
      execTimes 6 (.taskSched id d) s = .next
        ({ s with
            lastNow := time s.ovf s.counter
            pendTimerSw := s.pendTimerSw || decide (d.toNat < s.cfg.minTimeout.toNat)
            taskInUse := true
            taskId := id
            taskExpired := decide (d.toNat < s.cfg.minTimeout.toNat) }.setChan .ch3
          { cc := s.counter + d
            evt := false
            inten := true
            uncertain := decide (1 ≤ d.toNat ∧ d.toNat < s.cfg.cmpGuard.toNat) }).complete)

/-- R144: if the check at the commit does not force expiry, and fewer than 2^24 - `P_MIN_TIMEOUT` ticks passed since the time
was read, then the compare write was certain, no match came before the commit, and the match still lies at least
`P_MIN_TIMEOUT` ahead: no armed timer is lost. `a` ticks pass before the compare write and `b` after it. -/
def Obligations.NoArmedTimerIsLost : Prop :=
  ∀ (p : Params) (t0 timeout : Ticks) (a b : Nat), 1 ≤ p.minTimeout.toNat → p.cmpGuard.toNat ≤ p.minTimeout.toNat →
    a + b + p.minTimeout.toNat < 2 ^ 24 →
    forcedExpiry p t0 (t0 + BitVec.ofNat 24 (a + b)) timeout = false →
    uncertainWrite p (t0 + timeout) (t0 + BitVec.ofNat 24 a) = false
    ∧ (∀ k, k ≤ b → t0 + BitVec.ofNat 24 (a + k) ≠ t0 + timeout)
    ∧ p.minTimeout.toNat ≤ (t0 + timeout - (t0 + BitVec.ofNat 24 (a + b))).toNat
    ∧ (t0 + timeout - (t0 + BitVec.ofNat 24 (a + b))).toNat = timeout.toNat - (a + b)

/-! ## The sleep arbiter -/

/-- R181, R183: the arbitrated write of each of the six reasons onto each of the eight: written, kept, or a fault with `WAKE`
unchanged, as the table has it, column by column. -/
def Obligations.ArbitrationTable : Prop :=
  ∀ s : State,
    ((arbWrite .sleepTimerExpired s : Micro Empty Unit) =
      match s.wake with
      | .messageReceived => .ret () s
      | .sleepTimerExpired => .fault .arbReexpiry s
      | .hfClockStarted => .fault .arbClockStartup s
      | .lfClockStarted => .fault .arbClockStartup s
      | _ => .ret () { s with wake := .sleepTimerExpired })
    ∧ ((arbWrite .counterOverflowOrOther s : Micro Empty Unit) =
      match s.wake with
      | .cleared => .ret () { s with wake := .counterOverflowOrOther }
      | .hfClockStarted => .fault .arbClockStartup s
      | .lfClockStarted => .fault .arbClockStartup s
      | _ => .ret () s)
    ∧ ((arbWrite .messageReceived s : Micro Empty Unit) =
      match s.wake with
      | .messageReceived => .ret () s
      | .hfClockStarted => .ret () s
      | .lfClockStarted => .ret () s
      | _ => .ret () { s with wake := .messageReceived })
    ∧ ((arbWrite .brownoutWarning s : Micro Empty Unit) =
      match s.wake with
      | .cleared => .ret () { s with wake := .brownoutWarning }
      | _ => .ret () s)
    ∧ ((arbWrite .hfClockStarted s : Micro Empty Unit) = .ret () { s with wake := .hfClockStarted })
    ∧ ((arbWrite .lfClockStarted s : Micro Empty Unit) = .ret () { s with wake := .lfClockStarted })

/-- R194, R195: POST.MSG and POST.BROWNOUT complete in every state, in either context, and write `WAKE` as the MR and BW
columns of R181 say. -/
def Obligations.PostCommandsWriteTheWakeReason : Prop :=
  encode .postMsg = 0x02000000 ∧ encode .postBrownout = 0x03000000
  ∧ (∀ s : State, (s.wake = .messageReceived ∨ s.wake = .hfClockStarted ∨ s.wake = .lfClockStarted) →
      exec .postMsg s = .next s.complete)
  ∧ (∀ s : State, s.wake ≠ .messageReceived → s.wake ≠ .hfClockStarted → s.wake ≠ .lfClockStarted →
      exec .postMsg s = .next { s with wake := .messageReceived }.complete)
  ∧ (∀ s : State, s.wake = .cleared → exec .postBrownout s = .next { s with wake := .brownoutWarning }.complete)
  ∧ (∀ s : State, s.wake ≠ .cleared → exec .postBrownout s = .next s.complete)

/-- R186: the wait primitive in its two forms; what ends it (R253, and the spurious wake, which `ENV` has with
`P_SPURIOUS_WAKE` only, in a faulted block as the free value `faultedWake` says, log 28). At S2 the model has no step while
`FG_WAITING = 1` (log 13). -/
def Obligations.WaitPrimitive : Prop :=
  (∀ s : State, s.cfg.waitLatch = .latched → s.evLatch = true →
    waitStep .s1 s = .ret () { s with evLatch := false })
  ∧ (∀ s : State, s.cfg.waitLatch = .latched → s.evLatch = false →
      waitStep .s1 s = .goto .s2 { s with fgWaiting := true })
  ∧ (∀ s : State, s.cfg.waitLatch = .notLatched →
      waitStep .s1 s = .goto .s2 { s with evLatch := false, fgWaiting := true })
  ∧ (∀ s : State, s.fgWaiting = false → waitStep .s2 s = .ret () { s with evLatch := false })
  ∧ (∀ s : State, s.nextMove = .fg → s.fgWaiting = true → step s = .next s.takeMove)
  ∧ (∀ s : State, s.nextMove = .envWake →
      step s = .next
        (if s.cfg.spuriousWake = true ∧ s.fgWaiting = true ∧ (s.fault = false ∨ s.cfg.faultedWake = true) then
          { s.takeMove with fgWaiting := false }
        else s.takeMove))

/-- R187, R188: SLP.TIMEOUT, foreground only, micro-step by micro-step: the clear, the sane check, the start, the arm, the
wait, the stop. -/
def Obligations.SlpTimeoutMicroSteps : Prop :=
  (∀ t : Ticks, (encode (.slpTimeout t)).toNat = 0xB0000000 + t.toNat)
  ∧ (∀ (s : State) (t : Ticks), s.isrActive = true → exec (.slpTimeout t) s = .next (s.raiseFault .illegalContext))
  ∧ ∀ (s : State) (t : Ticks), s.isrActive = false →
    (s.frame = none →
      exec (.slpTimeout t) s = .next ({ s with wake := .cleared }.hold ⟨.slpTimeout t, .slpTimeout .sane⟩))
    ∧ (s.at (.slpTimeout t) (.slpTimeout .sane) = true →
      (t.toNat ≤ s.sane.toNat →
        exec (.slpTimeout t) s = .next (s.hold ⟨.slpTimeout t, .slpTimeout (.start t)⟩))
      ∧ (s.sane.toNat < t.toNat → s.cfg.build = .debug →
        exec (.slpTimeout t) s = .next (s.raiseFault .saneTimeout))
      ∧ (s.sane.toNat < t.toNat → s.cfg.build = .release →
        exec (.slpTimeout t) s = .next (s.hold ⟨.slpTimeout t, .slpTimeout (.start s.sane)⟩)))
    ∧ (∀ u, s.at (.slpTimeout t) (.slpTimeout (.start u)) = true →
      (s.timers.p0.inUse = true → s.cfg.build = .debug →
        exec (.slpTimeout t) s = .next (s.raiseFault .doubleStart))
      ∧ (s.timers.p0.inUse = true → s.cfg.build = .release →
        exec (.slpTimeout t) s = .next (s.hold ⟨.slpTimeout t, .slpTimeout (.wait .s1)⟩))
      ∧ (s.timers.p0.inUse = false →
        exec (.slpTimeout t) s = .next
          (((s.setTimer .t0 { inUse := true, expired := false, cbId := 0 }).setChan .ch0
            { s.chan .ch0 with inten := false }).hold ⟨.slpTimeout t, .slpTimeout (.arm u (.now .s1))⟩)))
    ∧ (∀ u l, s.at (.slpTimeout t) (.slpTimeout (.arm u l)) = true →
      exec (.slpTimeout t) s = .next
        (match armStep .ch0 u l s with
         | .goto k v => v.hold ⟨.slpTimeout t, .slpTimeout (.arm u k)⟩
         | .ret _ v => v.hold ⟨.slpTimeout t, .slpTimeout (.wait .s1)⟩
         | .fault c v => v.raiseFault c))
    ∧ (∀ l, s.at (.slpTimeout t) (.slpTimeout (.wait l)) = true →
      exec (.slpTimeout t) s = .next
        (match waitStep l s with
         | .goto k v => v.hold ⟨.slpTimeout t, .slpTimeout (.wait k)⟩
         | .ret _ v => v.hold ⟨.slpTimeout t, .slpTimeout (.stop .s1)⟩
         | .fault c v => v.raiseFault c))
    ∧ (s.at (.slpTimeout t) (.slpTimeout (.stop .s1)) = true →
      exec (.slpTimeout t) s =
        .next ((s.setChan .ch0 { s.chan .ch0 with inten := false }).hold ⟨.slpTimeout t, .slpTimeout (.stop .s2)⟩))
    ∧ (s.at (.slpTimeout t) (.slpTimeout (.stop .s2)) = true →
      exec (.slpTimeout t) s =
        .next ((s.setChan .ch0 { s.chan .ch0 with evt := false }).hold ⟨.slpTimeout t, .slpTimeout (.stop .s3)⟩))
    ∧ (s.at (.slpTimeout t) (.slpTimeout (.stop .s3)) = true →
      exec (.slpTimeout t) s = .next (s.setTimer .t0 { s.timer .t0 with inUse := false }).complete)

/-- R187: SLP.TIMEOUT as a whole where no other agent steps in between: with the latch set, its wait returns at once, and the
sleep timer is stopped again. -/
def Obligations.SlpTimeoutUninterrupted : Prop :=
  ∀ (s : State) (t : Ticks), s.isrActive = false → s.fgFrame = none → t.toNat ≤ s.sane.toNat →
    s.timers.p0.inUse = false → s.cfg.waitLatch = .latched → s.evLatch = true →
    (s.cfg.build = .release ∨ s.lastNow ≤ time s.ovf s.counter) →
    execTimes 12 (.slpTimeout t) s = .next
      (({ s with
          wake := .cleared
          evLatch := false
          lastNow := time s.ovf s.counter
          pendTimerSw := s.pendTimerSw || decide (t.toNat < s.cfg.minTimeout.toNat) }.setTimer .t0
            { inUse := false, expired := decide (t.toNat < s.cfg.minTimeout.toNat), cbId := 0 }).setChan .ch0
          { cc := s.counter + t
            evt := false
            inten := false
            uncertain := decide (1 ≤ t.toNat ∧ t.toNat < s.cfg.cmpGuard.toNat) }).complete

/-- R189: SLP.DURATION, foreground only, micro-step by micro-step; it completes at the test with `WAKE = 2`, and otherwise
sleeps again for what remains. In `Debug` a `D > SANE` faults SANE_TIMEOUT in the first iteration where no other agent steps in
between; that the check is on what remains, so that ticks between the two reads of the time may keep the fault away, is the
model's (log 30). -/
def Obligations.SlpDurationLoops : Prop :=
  (∀ d : Ticks, (encode (.slpDuration d)).toNat = 0xC0000000 + d.toNat)
  ∧ (∀ (s : State) (d : Ticks), s.isrActive = true → exec (.slpDuration d) s = .next (s.raiseFault .illegalContext))
  ∧ ∀ (s : State) (d : Ticks), s.isrActive = false →
    (s.frame = none → exec (.slpDuration d) s = .next (s.hold ⟨.slpDuration d, .slpDuration (.begin .s1)⟩))
    ∧ (∀ l, s.at (.slpDuration d) (.slpDuration (.begin l)) = true →
      exec (.slpDuration d) s = .next
        (match nowStep l s with
         | .goto k v => v.hold ⟨.slpDuration d, .slpDuration (.begin k)⟩
         | .ret start v => v.hold ⟨.slpDuration d, .slpDuration (.again start .s1)⟩
         | .fault c v => v.raiseFault c))
    ∧ (∀ start l, s.at (.slpDuration d) (.slpDuration (.again start l)) = true →
      exec (.slpDuration d) s = .next
        (match nowStep l s with
         | .goto k v => v.hold ⟨.slpDuration d, .slpDuration (.again start k)⟩
         | .ret n v =>
           v.hold ⟨.slpDuration d, .slpDuration (.sleep start
             (toTicks24 (clampedDiff (d.setWidth 56) (clampedDiff n start))) .clear)⟩
         | .fault c v => v.raiseFault c))
    ∧ (∀ start u l, s.at (.slpDuration d) (.slpDuration (.sleep start u l)) = true →
      exec (.slpDuration d) s = .next
        (match sleepStep u l s with
         | .goto k v => v.hold ⟨.slpDuration d, .slpDuration (.sleep start u k)⟩
         | .ret _ v => v.hold ⟨.slpDuration d, .slpDuration (.test start)⟩
         | .fault c v => v.raiseFault c))
    ∧ (∀ start, s.at (.slpDuration d) (.slpDuration (.test start)) = true →
      (s.wake = .sleepTimerExpired → exec (.slpDuration d) s = .next s.complete)
      ∧ (s.wake ≠ .sleepTimerExpired →
        exec (.slpDuration d) s = .next (s.hold ⟨.slpDuration d, .slpDuration (.again start .s1)⟩)))
    ∧ (s.fgFrame = none → s.cfg.build = .debug → s.lastNow ≤ time s.ovf s.counter → s.sane.toNat < d.toNat →
      execTimes 9 (.slpDuration d) s = .next
        ((({ s with lastNow := time s.ovf s.counter, wake := .cleared } : State).hold
          ⟨.slpDuration d, .slpDuration (.sleep (time s.ovf s.counter) d .sane)⟩).raiseFault .saneTimeout))

/-- R190: SLP.UNTIL, foreground only, micro-step by micro-step, and as a whole where its wait returns at once; it never clears
`WAKE`, and it waits at least once. -/
def Obligations.SlpUntilWaitsForTheReason : Prop :=
  (∀ r : WakeReason, encode (.slpUntil r) =
      match r with
      | .cleared => 0xD0000000
      | .messageReceived => 0xD0000001
      | .sleepTimerExpired => 0xD0000002
      | .counterOverflowOrOther => 0xD0000003
      | .brownoutWarning => 0xD0000004
      | .hfClockStarted => 0xD0000005
      | .lfClockStarted => 0xD0000006
      | .unknown => 0xD0000007)
  ∧ (∀ (s : State) (r : WakeReason), s.isrActive = true → exec (.slpUntil r) s = .next (s.raiseFault .illegalContext))
  ∧ ∀ (s : State) (r : WakeReason), s.isrActive = false →
    (s.frame = none → exec (.slpUntil r) s = .next (s.hold ⟨.slpUntil r, .slpUntil (.wait .s1)⟩))
    ∧ (∀ l, s.at (.slpUntil r) (.slpUntil (.wait l)) = true →
      exec (.slpUntil r) s = .next
        (match waitStep l s with
         | .goto k v => v.hold ⟨.slpUntil r, .slpUntil (.wait k)⟩
         | .ret _ v => v.hold ⟨.slpUntil r, .slpUntil .test⟩
         | .fault c v => v.raiseFault c))
    ∧ (s.at (.slpUntil r) (.slpUntil .test) = true →
      (s.wake = r → exec (.slpUntil r) s = .next s.complete)
      ∧ (s.wake ≠ r → exec (.slpUntil r) s = .next (s.hold ⟨.slpUntil r, .slpUntil (.wait .s1)⟩)))
    ∧ (s.fgFrame = none → s.cfg.waitLatch = .latched → s.evLatch = true → s.wake = r →
      execTimes 3 (.slpUntil r) s = .next { s with evLatch := false }.complete)

/-- R191, R192, R193: SLP.ISTIMER, SLP.SETSANE and WAKE.READ, in either context. -/
def Obligations.WakeQueriesAndCeiling : Prop :=
  encode .slpIsTimer = 0xE0000000 ∧ encode .wakeRead = 0x01000000
  ∧ (∀ m : Ticks, (encode (.slpSetSane m)).toNat = 0xF0000000 + m.toNat)
  ∧ (∀ s : State, s.wake = .sleepTimerExpired → exec .slpIsTimer s = .next { s with res := 1 }.complete)
  ∧ (∀ s : State, s.wake ≠ .sleepTimerExpired → exec .slpIsTimer s = .next { s with res := 0 }.complete)
  ∧ (∀ (s : State) (m : Ticks), exec (.slpSetSane m) s = .next { s with sane := m }.complete)
  ∧ (∀ s : State,
      exec .wakeRead s = .next
        { s with
          res := match s.wake with
                 | .cleared => 0
                 | .messageReceived => 1
                 | .sleepTimerExpired => 2
                 | .counterOverflowOrOther => 3
                 | .brownoutWarning => 4
                 | .hfClockStarted => 5
                 | .lfClockStarted => 6
                 | .unknown => 7 }.complete)

/-! ## Oscillator start-up -/

/-- R224, R222: LF.START, foreground only, micro-step by micro-step, and its last two micro-steps as one. -/
def Obligations.LfStartWaitsForTheOscillator : Prop :=
  encode .lfStart = 0x04000000
  ∧ (∀ (s : State), s.isrActive = true → exec .lfStart s = .next (s.raiseFault .illegalContext))
  ∧ ∀ s : State, s.isrActive = false →
    (s.frame = none → exec .lfStart s = .next ({ s with wake := .cleared }.hold ⟨.lfStart, .lfStart .enable⟩))
    ∧ (s.at .lfStart (.lfStart .enable) = true →
      exec .lfStart s = .next ({ s with intenLf := true }.hold ⟨.lfStart, .lfStart .request⟩))
    ∧ (s.at .lfStart (.lfStart .request) = true →
      exec .lfStart s = .next
        (({ s with lfclk := if s.lfclk = .stopped then .starting else s.lfclk } : State).hold
          ⟨.lfStart, .lfStart (.loop (.wait .s1))⟩))
    ∧ (∀ l, s.at .lfStart (.lfStart (.loop (.wait l))) = true →
      exec .lfStart s = .next
        (match waitStep l s with
         | .goto k v => v.hold ⟨.lfStart, .lfStart (.loop (.wait k))⟩
         | .ret _ v => v.hold ⟨.lfStart, .lfStart (.loop .test)⟩
         | .fault c v => v.raiseFault c))
    ∧ (s.at .lfStart (.lfStart (.loop .test)) = true →
      (s.wake = .lfClockStarted →
        exec .lfStart s = .next (s.hold ⟨.lfStart, .lfStart .disable⟩)
        ∧ execTimes 2 .lfStart s = .next { s with intenLf := false }.complete)
      ∧ (s.wake ≠ .lfClockStarted →
        exec .lfStart s = .next (s.hold ⟨.lfStart, .lfStart (.loop (.wait .s1))⟩)))
    ∧ (s.at .lfStart (.lfStart .disable) = true → exec .lfStart s = .next { s with intenLf := false }.complete)

/-- R225, R222: HF.START.DELAY, foreground only: the request, then the body of SLP.DURATION with `P_HF_DELAY`; it completes at
that body's test with `WAKE = 2`. A `P_HF_DELAY > SANE` faults in `Debug` as in `SlpDurationLoops` (log 30). -/
def Obligations.HfStartDelaySleeps : Prop :=
  encode .hfStartDelay = 0x05000000
  ∧ (∀ (s : State), s.isrActive = true → exec .hfStartDelay s = .next (s.raiseFault .illegalContext))
  ∧ ∀ s : State, s.isrActive = false →
    (s.frame = none →
      exec .hfStartDelay s = .next
        (({ s with hfclk := if s.hfclk = .stopped then .starting else s.hfclk } : State).hold
          ⟨.hfStartDelay, .hfStartDelay (.begin .s1)⟩))
    ∧ (∀ l, s.at .hfStartDelay (.hfStartDelay l) = true →
      exec .hfStartDelay s = .next
        (match durationStep s.cfg.hfDelay l s with
         | .goto k v => v.hold ⟨.hfStartDelay, .hfStartDelay k⟩
         | .ret _ v => v.complete
         | .fault c v => v.raiseFault c))
    ∧ (∀ start, s.at .hfStartDelay (.hfStartDelay (.test start)) = true →
      (s.wake = .sleepTimerExpired → exec .hfStartDelay s = .next s.complete)
      ∧ (s.wake ≠ .sleepTimerExpired →
        exec .hfStartDelay s = .next (s.hold ⟨.hfStartDelay, .hfStartDelay (.again start .s1)⟩)))
    ∧ (s.fgFrame = none → s.cfg.build = .debug → s.lastNow ≤ time s.ovf s.counter → s.sane.toNat < s.cfg.hfDelay.toNat →
      execTimes 9 .hfStartDelay s = .next
        ((({ s with
              hfclk := if s.hfclk = .stopped then .starting else s.hfclk
              lastNow := time s.ovf s.counter
              wake := .cleared } : State).hold
          ⟨.hfStartDelay, .hfStartDelay (.sleep (time s.ovf s.counter) s.cfg.hfDelay .sane)⟩).raiseFault .saneTimeout))

/-- R226, R227, R222: HF.START.IRQ, foreground only, micro-step by micro-step, with its `Debug` precondition, and its last two
micro-steps as one. In `Release` with a stale event the clock line requests as soon as S3 has set the enable; that the wait
then is the one of `WaitPrimitive`, with either `P_WAIT_LATCH`, is the model's (log 31). -/
def Obligations.HfStartIrqWaitsForTheOscillator : Prop :=
  encode .hfStartIrq = 0x06000000
  ∧ (∀ (s : State), s.isrActive = true → exec .hfStartIrq s = .next (s.raiseFault .illegalContext))
  ∧ ∀ s : State, s.isrActive = false →
    (s.frame = none → s.cfg.build = .debug → (s.hfclk = .running ∨ s.evtHfStarted = true) →
      exec .hfStartIrq s = .next (s.raiseFault .hfPrecondition))
    ∧ (s.frame = none → (s.cfg.build = .release ∨ (s.hfclk ≠ .running ∧ s.evtHfStarted = false)) →
      exec .hfStartIrq s = .next (s.hold ⟨.hfStartIrq, .hfStartIrq .clear⟩))
    ∧ (s.at .hfStartIrq (.hfStartIrq .clear) = true →
      exec .hfStartIrq s = .next ({ s with wake := .cleared }.hold ⟨.hfStartIrq, .hfStartIrq .enable⟩))
    ∧ (s.at .hfStartIrq (.hfStartIrq .enable) = true →
      exec .hfStartIrq s = .next ({ s with intenHf := true }.hold ⟨.hfStartIrq, .hfStartIrq .request⟩)
      ∧ (s.evtHfStarted = true → ∃ t, exec .hfStartIrq s = .next t ∧ t.requests .clock = true))
    ∧ (s.at .hfStartIrq (.hfStartIrq .request) = true →
      exec .hfStartIrq s = .next
        (({ s with hfclk := if s.hfclk = .stopped then .starting else s.hfclk } : State).hold
          ⟨.hfStartIrq, .hfStartIrq (.loop (.wait .s1))⟩))
    ∧ (∀ l, s.at .hfStartIrq (.hfStartIrq (.loop (.wait l))) = true →
      exec .hfStartIrq s = .next
        (match waitStep l s with
         | .goto k v => v.hold ⟨.hfStartIrq, .hfStartIrq (.loop (.wait k))⟩
         | .ret _ v => v.hold ⟨.hfStartIrq, .hfStartIrq (.loop .test)⟩
         | .fault c v => v.raiseFault c))
    ∧ (s.at .hfStartIrq (.hfStartIrq (.loop .test)) = true →
      (s.wake = .hfClockStarted →
        exec .hfStartIrq s = .next (s.hold ⟨.hfStartIrq, .hfStartIrq .disable⟩)
        ∧ execTimes 2 .hfStartIrq s = .next { s with intenHf := false }.complete)
      ∧ (s.wake ≠ .hfClockStarted →
        exec .hfStartIrq s = .next (s.hold ⟨.hfStartIrq, .hfStartIrq (.loop (.wait .s1))⟩)))
    ∧ (s.at .hfStartIrq (.hfStartIrq .disable) = true →
      exec .hfStartIrq s = .next { s with intenHf := false }.complete)

/-- R88: each of the six waiting commands raises ILLEGAL_CONTEXT in interrupt context; every other command is legal in both
contexts. -/
def Obligations.WaitingCommandsAreForegroundOnly : Prop :=
  (∀ (i : Instr) (s : State), waitsFor i = true → s.isrActive = true →
    exec i s = .next (s.raiseFault .illegalContext))
  ∧ (∀ (i : Instr) (s t : State), (waitsFor i = false ∨ s.isrActive = false) → s.faultCode ≠ .illegalContext →
      exec i s = .next t → t.faultCode ≠ .illegalContext)
  ∧ (∀ i : Instr, waitsFor i = true ↔
      (∃ t, i = .slpTimeout t) ∨ (∃ d, i = .slpDuration d) ∨ (∃ r, i = .slpUntil r) ∨ i = .lfStart
        ∨ i = .hfStartDelay ∨ i = .hfStartIrq)

/-! ## Faults and interrupts -/

/-- R243: in the step that raises a fault, `FAULT` and `FAULT_CODE` are set and the event is appended; the frames, the `PC`s,
`ISR_ACTIVE` and `FG_WAITING` keep their values, and from then on in every step of every agent. A fault on top of a fault changes
nothing. The one exception is the model's (log 28): where the free value `faultedWake` admits it, the spurious wake of R186 ends
the wait of a faulted block. -/
def Obligations.RaisingAFault : Prop :=
  (∀ (s : State) (c : FaultCode), s.fault = false →
    s.raiseFault c = { s with fault := true, faultCode := c, history := s.history ++ [.fault c] })
  ∧ (∀ (s : State) (c : FaultCode), s.fault = true → s.raiseFault c = s)
  ∧ (∀ s t : State, s.fault = false → step s = .next t → t.fault = true →
      t.faultCode ≠ .none ∧ (∃ h, t.history = h ++ [.fault t.faultCode])
      ∧ t.pc = s.pc ∧ t.fgFrame = s.fgFrame ∧ t.isrFrame = s.isrFrame ∧ t.isrActive = s.isrActive
      ∧ t.fgWaiting = s.fgWaiting)
  ∧ (∀ s t : State, s.fault = true → step s = .next t →
      t.pc = s.pc ∧ t.fgFrame = s.fgFrame ∧ t.isrFrame = s.isrFrame ∧ t.isrActive = s.isrActive
      ∧ t.res = s.res
      ∧ (t.fgWaiting = s.fgWaiting
        ∨ (s.nextMove = .envWake ∧ s.cfg.spuriousWake = true ∧ s.cfg.faultedWake = true ∧ t.fgWaiting = false)))

/-- R245, R246: the request of each line, from the events, the enables and the pends. -/
def Obligations.InterruptRequests : Prop :=
  ∀ s : State,
    (s.requests .timer = true ↔
      s.pendTimerSw = true ∨ (s.evtOvf = true ∧ s.intenOvf = true)
        ∨ ∃ ch, (s.chan ch).evt = true ∧ (s.chan ch).inten = true)
    ∧ (s.requests .clock = true ↔
      (s.evtLfStarted = true ∧ s.intenLf = true) ∨ (s.evtHfStarted = true ∧ s.intenHf = true))
    ∧ (s.requests .radio = true ↔ s.pendRadio = true)
    ∧ (s.requests .power = true ↔ s.pendPower = true)
    ∧ (s.irqReq = true ↔ ∃ line, s.requests line = true)

/-- R252, R253: an idle, unfaulted `ISR` enters the drawn line if it requests, whatever else requests, and nothing of the
foreground changes. The exit of a handler. -/
def Obligations.InterruptEntryAndExit : Prop :=
  (∀ (s : State) (line : Line), s.nextMove = .isr line → s.fault = false → s.isrActive = false →
    s.requests line = true →
      step s = .next
        { s.takeMove with
          isrActive := true
          isrFrame := some
            { line := line
              label := match line with
                       | .timer => .ovfCount
                       | .clock => .clockLf
                       | .radio => .radioPost
                       | .power => .powerPost
              handled := []
              stack := [] }
          pendTimerSw := s.pendTimerSw && line != .timer
          pendRadio := s.pendRadio && line != .radio
          pendPower := s.pendPower && line != .power
          history := s.history ++ [.isrEntry line] })
  ∧ (∀ (s : State) (f : IsrFrame), s.handlerNext f .exit →
      step s = .next { s.takeMove with isrActive := false, isrFrame := none, evLatch := true, fgWaiting := false })

/-- R254, R252: while a handler is active no entry is taken and nothing of the foreground moves; interrupt context is left by
the exit only (R262). -/
def Obligations.NoNestingAndForegroundFrozen : Prop :=
  ∀ s t : State, s.isrActive = true → step s = .next t →
    t.history.filter (fun e => match e with | .isrEntry _ => true | _ => false)
      = s.history.filter (fun e => match e with | .isrEntry _ => true | _ => false)
    ∧ t.pc = s.pc ∧ t.fgFrame = s.fgFrame
    ∧ (t.isrActive = false → ∃ f, s.handlerNext f .exit)

/-- R256: the overflow part counts a set event once and requests its clear, then holds until no clear is pending; the handler
goes on with the pool scan (R255). -/
def Obligations.OverflowPart : Prop :=
  (∀ (s : State) (f : IsrFrame), s.handlerNext f .ovfCount →
    (s.evtOvf = true → s.evtOvfClrPend = false →
      step s = .next
        { s.takeMove with
          ovf := s.ovf + 1, evtOvfClrPend := true, isrFrame := some { f with label := .ovfSpin } })
    ∧ ((s.evtOvf = false ∨ s.evtOvfClrPend = true) →
      step s = .next { s.takeMove with isrFrame := some { f with label := .ovfSpin } }))
  ∧ (∀ (s : State) (f : IsrFrame), s.handlerNext f .ovfSpin →
      (s.evtOvfClrPend = true → step s = .next s.takeMove)
      ∧ (s.evtOvfClrPend = false → s.cfg.nTimers = .two →
        step s = .next { s.takeMove with isrFrame := some { f with label := .poolScan [.t0, .t1] } })
      ∧ (s.evtOvfClrPend = false → s.cfg.nTimers = .three →
        step s = .next { s.takeMove with isrFrame := some { f with label := .poolScan [.t0, .t1, .t2] } }))

/-- R151, R152: the two phases: each index with a set event is disabled, cleared and marked expired; the set of the due indices
is kept; each of them that is still due is handled, and each that is not is skipped. -/
def Obligations.PoolScanAndHandle : Prop :=
  (∀ (s : State) (f : IsrFrame) (j : PoolIx) (todo : List PoolIx), s.handlerNext f (.poolScan (j :: todo)) →
    ((s.chan j.chan).evt = true →
      step s = .next
        { ((s.takeMove.setChan j.chan { s.chan j.chan with inten := false, evt := false }).setTimer j
            { s.timer j with expired := true }) with
          isrFrame := some { f with label := if todo = [] then .poolCollect else .poolScan todo } })
    ∧ ((s.chan j.chan).evt = false →
      step s = .next
        { s.takeMove with isrFrame := some { f with label := if todo = [] then .poolCollect else .poolScan todo } }))
  ∧ (∀ (s : State) (f : IsrFrame), s.handlerNext f .poolCollect →
      ∃ h : List PoolIx,
        h.Sublist (poolIndices s.cfg.nTimers)
        ∧ (∀ j, j ∈ h ↔ j ∈ poolIndices s.cfg.nTimers ∧ (s.timer j).expired = true ∧ (s.timer j).inUse = true)
        ∧ step s = .next
            { s.takeMove with
              isrFrame := some { f with handled := h, label := if h = [] then .secondary else .poolHandle h } })
  ∧ (∀ (s : State) (f : IsrFrame) (j : PoolIx) (todo : List PoolIx), s.handlerNext f (.poolHandle (j :: todo)) →
      ((s.timer j).expired = true → (s.timer j).inUse = true →
        step s = .next
          { s.takeMove with isrFrame := some { f with label := .expireStop j (s.timer j).cbId .s1 todo } })
      ∧ (((s.timer j).expired = false ∨ (s.timer j).inUse = false) →
        step s = .next
          { s.takeMove with
            isrFrame := some { f with label := if todo = [] then .secondary else .poolHandle todo } }))

/-- R154, R147: the expiry of a timer is stopped first, in the three micro-steps of `STOP`, then dispatched with tag 2. -/
def Obligations.ExpirationStopsTheTimer : Prop :=
  ∀ (s : State) (f : IsrFrame) (j : PoolIx) (cb : BitVec 2) (todo : List PoolIx),
    (s.handlerNext f (.expireStop j cb .s1 todo) →
      step s = .next
        { (s.takeMove.setChan j.chan { s.chan j.chan with inten := false }) with
          isrFrame := some { f with label := .expireStop j cb .s2 todo } })
    ∧ (s.handlerNext f (.expireStop j cb .s2 todo) →
      step s = .next
        { (s.takeMove.setChan j.chan { s.chan j.chan with evt := false }) with
          isrFrame := some { f with label := .expireStop j cb .s3 todo } })
    ∧ (s.handlerNext f (.expireStop j cb .s3 todo) →
      step s = .next
        { (s.takeMove.setTimer j { s.timer j with inUse := false }) with
          isrFrame := some { f with label := .expireDispatch j cb todo } })

/-- R155, R157, R185, R153: a dispatch appends its history entry; the sleep callback then writes the wake reason of the tag
through the arbitrated port, and a client callback's list is pushed with `PC = 0`. The expiry dispatches with tag 2; the
secondary path dispatches timer 0 with tag 3 if it is in use and was not due, and does nothing otherwise. -/
def Obligations.DispatchRunsTheCallback : Prop :=
  (∀ (s : State) (f : IsrFrame) (next : HandlerLabel) (j : PoolIx) (cb : BitVec 2) (tag : CallbackTag),
    (cb ≠ 0 →
      dispatch f next j cb tag s =
        { s with
          history := s.history ++ [.callback j cb tag]
          isrFrame := some
            { f with label := next, stack := { list := .client cb tag, pc := 0, frame := none } :: f.stack } })
    ∧ (cb = 0 →
      dispatch f next j cb tag s =
        match
          (arbWrite
            (match tag with
             | .expiry => .sleepTimerExpired
             | .other => .counterOverflowOrOther) s : Micro Empty Unit) with
        | .goto _ _ => s
        | .ret _ t =>
          { t with history := s.history ++ [.callback j cb tag], isrFrame := some { f with label := next } }
        | .fault c t => ({ t with history := s.history ++ [.callback j cb tag] } : State).raiseFault c))
  ∧ (∀ (s : State) (f : IsrFrame) (j : PoolIx) (cb : BitVec 2) (todo : List PoolIx),
      s.handlerNext f (.expireDispatch j cb todo) →
      step s = .next
        (dispatch f (if todo = [] then .secondary else .poolHandle todo) j cb .expiry s.takeMove))
  ∧ (∀ (s : State) (f : IsrFrame), s.handlerNext f .secondary →
      (PoolIx.t0 ∉ f.handled → s.timers.p0.inUse = true →
        step s = .next (dispatch f .taskScan .t0 s.timers.p0.cbId .other s.takeMove))
      ∧ ((PoolIx.t0 ∈ f.handled ∨ s.timers.p0.inUse = false) →
        step s = .next { s.takeMove with isrFrame := some { f with label := .taskScan } }))

/-- R162, R163: the task part: the scan of channel 3, the run of a due task's list, and its release only after the list. -/
def Obligations.TaskPart : Prop :=
  (∀ (s : State) (f : IsrFrame), s.handlerNext f .taskScan →
    ((s.chan .ch3).evt = true →
      step s = .next
        { (s.takeMove.setChan .ch3 { s.chan .ch3 with inten := false, evt := false }) with
          taskExpired := true, isrFrame := some { f with label := .taskHandle } })
    ∧ ((s.chan .ch3).evt = false →
      step s = .next { s.takeMove with isrFrame := some { f with label := .taskHandle } }))
  ∧ (∀ (s : State) (f : IsrFrame), s.handlerNext f .taskHandle →
      (s.taskExpired = true → s.taskInUse = true →
        step s = .next
          { (s.takeMove.setChan .ch3 { s.chan .ch3 with inten := false, evt := false }) with
            history := s.history ++ [.taskRun s.taskId]
            isrFrame := some
              { f with label := .taskDone, stack := [{ list := .task s.taskId, pc := 0, frame := none }] } })
      ∧ ((s.taskExpired = false ∨ s.taskInUse = false) →
        step s = .next { s.takeMove with isrFrame := some { f with label := .exit } }))
  ∧ (∀ (s : State) (f : IsrFrame), s.handlerNext f .taskDone →
      step s = .next { s.takeMove with taskInUse := false, isrFrame := some { f with label := .exit } })

/-- R258: the clock handler clears each enabled "started" event and then posts its reason; an event whose enable is 0 is left
pending. R259, R260: the radio and power handlers post MessageReceived and BrownoutWarning as R181 says. Then they exit. -/
def Obligations.ClockRadioAndPowerHandlers : Prop :=
  ∀ (s : State) (f : IsrFrame),
    (s.handlerNext f .clockLf →
      step s = .next
        { s.takeMove with
          evtLfStarted := s.evtLfStarted && !s.intenLf
          isrFrame := some { f with label := .clockLfPost (s.evtLfStarted && s.intenLf) } })
    ∧ (s.handlerNext f (.clockLfPost true) →
      step s = .next { s.takeMove with wake := .lfClockStarted, isrFrame := some { f with label := .clockHf } })
    ∧ (s.handlerNext f (.clockLfPost false) →
      step s = .next { s.takeMove with isrFrame := some { f with label := .clockHf } })
    ∧ (s.handlerNext f .clockHf →
      step s = .next
        { s.takeMove with
          evtHfStarted := s.evtHfStarted && !s.intenHf
          isrFrame := some { f with label := .clockHfPost (s.evtHfStarted && s.intenHf) } })
    ∧ (s.handlerNext f (.clockHfPost true) →
      step s = .next { s.takeMove with wake := .hfClockStarted, isrFrame := some { f with label := .exit } })
    ∧ (s.handlerNext f (.clockHfPost false) →
      step s = .next { s.takeMove with isrFrame := some { f with label := .exit } })
    ∧ (s.handlerNext f .radioPost →
      step s = .next
        { s.takeMove with
          wake := match s.wake with
                  | .hfClockStarted => .hfClockStarted
                  | .lfClockStarted => .lfClockStarted
                  | _ => .messageReceived
          isrFrame := some { f with label := .exit } })
    ∧ (s.handlerNext f .powerPost →
      step s = .next
        { s.takeMove with
          wake := if s.wake = .cleared then .brownoutWarning else s.wake
          isrFrame := some { f with label := .exit } })

/-- R261: when the `PC` of a handler's list is past its end, the list is popped and the handler goes on where it stands. -/
def Obligations.ListReturnsToItsHandler : Prop :=
  ∀ (s : State) (line : Line) (f : IsrFrame) (l : ListFrame) (rest : List ListFrame),
    s.nextMove = .isr line → s.fault = false → s.isrActive = true → s.isrFrame = some f → f.stack = l :: rest →
    l.frame = none → (listWords s.cfg l.list).length ≤ 2 ^ 30 → (listWords s.cfg l.list).length ≤ l.pc.toNat / 4 →
    step s = .next { s.takeMove with isrFrame := some { f with stack := rest } }

/-! ## The hardware agents -/

/-- R100, R101, R102, R140: a tick, which comes only while the counter runs and `LFCLK` is not `Stopped`: the counter, the
overflow event in the tick that wraps, the compare match of each channel with the new value. -/
def Obligations.CounterTick : Prop :=
  (∀ (s : State) (d : Draws), s.nextMove = .cnt d → (s.counterRunning = false ∨ s.lfclk = .stopped) →
    step s = .next s.takeMove)
  ∧ (∀ (s : State) (d : Draws), s.nextMove = .cnt d → s.counterRunning = true → s.lfclk ≠ .stopped →
      ∃ cs : Channels,
        step s = .next
          { s.takeMove with
            counter := s.counter + 1
            evtOvf := s.evtOvf || s.counter == 0xFFFFFF
            evtOvfClrPend := s.evtOvfClrPend && s.counter != 0xFFFFFF
            chans := cs }
        ∧ ∀ ch : ChIx,
            ((s.chan ch).cc ≠ s.counter + 1 → cs.get ch = s.chan ch)
            ∧ ((s.chan ch).cc = s.counter + 1 → (s.chan ch).uncertain = false →
                cs.get ch = { s.chan ch with evt := true })
            ∧ ((s.chan ch).cc = s.counter + 1 → (s.chan ch).uncertain = true →
                cs.get ch =
                  { s.chan ch with
                    uncertain := false
                    evt := (s.chan ch).evt || (match ch with
                                               | .ch0 => d.fire0
                                               | .ch1 => d.fire1
                                               | .ch2 => d.fire2
                                               | .ch3 => d.fire3) }))

/-- R103, R221, R250: the settle step, the oscillators' step and the events of the radio and the power monitor; an agent whose
step is not enabled changes nothing (log 2). -/
def Obligations.SettleOscillatorsAndEvents : Prop :=
  (∀ s : State, s.nextMove = .settle →
    step s = .next
      (if s.evtOvfClrPend = true then { s.takeMove with evtOvf := false, evtOvfClrPend := false } else s.takeMove))
  ∧ (∀ s : State, s.nextMove = .osc .lf →
      step s = .next
        (if s.lfclk = .starting then { s.takeMove with lfclk := .running, evtLfStarted := true } else s.takeMove))
  ∧ (∀ s : State, s.nextMove = .osc .hf →
      step s = .next
        (if s.hfclk = .starting then { s.takeMove with hfclk := .running, evtHfStarted := true } else s.takeMove))
  ∧ (∀ s : State, s.nextMove = .envRadio → step s = .next { s.takeMove with pendRadio := true })
  ∧ (∀ s : State, s.nextMove = .envPower → step s = .next { s.takeMove with pendPower := true })

/-! ## The register window -/

/-- R62, R65: an access that is not 4 bytes wide, not 4-byte aligned or not of a mapped offset, a read of `CMD` and a write to a
register that is not `CMD` raise BUS_ERROR and do nothing else; a read of a mapped readable register has no effect (R64). -/
def Obligations.BusAccesses : Prop :=
  (∀ (s : State) (addr : Word) (n : Nat), s.nextMove = .hostRead addr n →
    ((n ≠ 4 ∨ (addr - s.cfg.base).toNat % 4 ≠ 0 ∨ (addr - s.cfg.base).toNat = 0
        ∨ 0x54 ≤ (addr - s.cfg.base).toNat) →
      s.memRead addr n = none ∧ step s = .next (s.takeMove.raiseFault .busError))
    ∧ (n = 4 → (addr - s.cfg.base).toNat % 4 = 0 → 4 ≤ (addr - s.cfg.base).toNat →
        (addr - s.cfg.base).toNat ≤ 0x50 →
      (s.memRead addr n).isSome = true ∧ step s = .next s.takeMove))
  ∧ (∀ (s : State) (addr : Word) (n : Nat) (v : Word), s.nextMove = .hostWrite addr n v →
      (n ≠ 4 ∨ (addr - s.cfg.base).toNat ≠ 0) → step s = .next (s.takeMove.raiseFault .busError))

/-- R66: a `CMD` write continues the foreground program, and is held while a command is under execution. What holds for a
second write and after a fault is the model's (log 5, log 6). -/
def Obligations.CmdWriteIssuesACommand : Prop :=
  ∀ (s : State) (v : Word), s.nextMove = .hostWrite s.cfg.base 4 v →
    ((s.fgFrame = none ∨ s.fault = true) →
      ∃ t, step s = .next t ∧ t = { s.takeMove with issued := s.issued ++ [v] } ∧ t.fgWords = s.fgWords ++ [v])
    ∧ (∀ c, s.fgFrame = some c → s.fault = false → s.cmdHeld = none →
      step s = .next { s.takeMove with cmdHeld := some v })
    ∧ (∀ c w, s.fgFrame = some c → s.fault = false → s.cmdHeld = some w → step s = .next s.takeMove)

/-- R45, R52 to R54, R56, R57, R59: the packed registers at their offsets, bit by bit; every other bit reads 0;
and what they read right after reset. -/
def Obligations.PackedRegisters : Prop :=
  (∀ (p : Params) (off : Word), off ∈ [0x04, 0x24, 0x28, 0x2C, 0x40, 0x44] →
    (State.resetWith p).memRead (p.base + off) 4 = some 0)
  ∧ ∀ s : State,
    (∃ v, s.memRead (s.cfg.base + 0x04) 4 = some v ∧ v.toNat =
      s.fgFrame.isSome.toNat + 2 * s.fgWaiting.toNat + 4 * s.fault.toNat + 8 * s.isrActive.toNat
        + 16 * s.evLatch.toNat)
    ∧ (∃ v, s.memRead (s.cfg.base + 0x24) 4 = some v ∧
        (∀ i ∈ poolIndices s.cfg.nTimers, ∀ k, k = (match i with | .t0 => 0 | .t1 => 1 | .t2 => 2) →
          v.getLsbD k = (s.timer i).inUse ∧ v.getLsbD (4 + k) = (s.timer i).expired
          ∧ v.extractLsb' (8 + 2 * k) 2 = (s.timer i).cbId)
        ∧ (s.cfg.nTimers = .two → v.getLsbD 2 = false ∧ v.getLsbD 6 = false ∧ v.extractLsb' 12 2 = 0)
        ∧ v.getLsbD 3 = s.taskInUse ∧ v.getLsbD 7 = s.taskExpired ∧ v.extractLsb' 14 2 = s.taskId
        ∧ v.extractLsb' 16 16 = 0)
    ∧ (∃ v, s.memRead (s.cfg.base + 0x28) 4 = some v ∧
        v.getLsbD 0 = s.evtOvf ∧ v.getLsbD 1 = s.evtOvfClrPend ∧ v.extractLsb' 2 2 = 0
        ∧ (∀ ch k, k = (match ch with | ChIx.ch0 => 0 | .ch1 => 1 | .ch2 => 2 | .ch3 => 3) →
            v.getLsbD (4 + k) = (s.chan ch).evt ∧ v.getLsbD (8 + k) = (s.chan ch).uncertain)
        ∧ v.getLsbD 12 = s.evtLfStarted ∧ v.getLsbD 13 = s.evtHfStarted ∧ v.extractLsb' 14 18 = 0)
    ∧ (∃ v, s.memRead (s.cfg.base + 0x2C) 4 = some v ∧
        v.getLsbD 0 = s.intenOvf ∧ v.extractLsb' 1 3 = 0
        ∧ (∀ ch k, k = (match ch with | ChIx.ch0 => 0 | .ch1 => 1 | .ch2 => 2 | .ch3 => 3) →
            v.getLsbD (4 + k) = (s.chan ch).inten)
        ∧ v.getLsbD 8 = s.intenLf ∧ v.getLsbD 9 = s.intenHf ∧ v.extractLsb' 10 22 = 0)
    ∧ (∃ v, s.memRead (s.cfg.base + 0x40) 4 = some v ∧
        v.extractLsb' 0 2 = (match s.lfclk with | .stopped => 0 | .starting => 1 | .running => 2)
        ∧ v.extractLsb' 2 2 = (match s.hfclk with | .stopped => 0 | .starting => 1 | .running => 2)
        ∧ v.getLsbD 4 = s.counterRunning ∧ v.getLsbD 5 = s.poolInit ∧ v.extractLsb' 6 26 = 0)
    ∧ (∃ v, s.memRead (s.cfg.base + 0x44) 4 = some v ∧
        v.getLsbD 0 = s.pendTimerSw ∧ v.getLsbD 1 = s.timerLevel ∧ v.getLsbD 2 = s.pendRadio
        ∧ v.getLsbD 3 = s.pendPower ∧ v.getLsbD 4 = s.clockLevel ∧ v.extractLsb' 5 3 = 0
        ∧ (s.isrActive = false → v.extractLsb' 8 2 = 0)
        ∧ (∀ f, s.isrActive = true → s.isrFrame = some f →
            v.extractLsb' 8 2 = (match f.line with | .timer => 0 | .clock => 1 | .radio => 2 | .power => 3))
        ∧ v.extractLsb' 10 22 = 0)
    ∧ (∃ v, s.memRead (s.cfg.base + 0x50) 4 = some v ∧
        v.extractLsb' 0 2 = (match s.cfg.nTimers with | .two => 2 | .three => 3)
        ∧ v.getLsbD 2 = (s.cfg.build == .debug) ∧ v.getLsbD 3 = (s.cfg.waitLatch == .latched)
        ∧ v.getLsbD 4 = s.cfg.spuriousWake ∧ v.extractLsb' 5 3 = 0
        ∧ v.extractLsb' 8 8 = s.cfg.minTimeout ∧ v.extractLsb' 16 8 = s.cfg.cmpGuard ∧ v.extractLsb' 24 8 = 0)

/-- R46 to R51, R55, R58, with the codes of R37 and R241: the registers at their offsets that show one element, and the pairs
that show a wider one; and what they read right after reset. -/
def Obligations.PlainRegisters : Prop :=
  (∀ (p : Params) (off : Word), off ∈ [0x08, 0x0C, 0x10, 0x14, 0x18, 0x1C, 0x30, 0x34, 0x38, 0x3C, 0x48, 0x4C] →
    (State.resetWith p).memRead (p.base + off) 4 = some 0)
  ∧ (∀ p : Params, (State.resetWith p).memRead (p.base + 0x20) 4 = some 0x00FFFFFF)
  ∧ ∀ s : State,
    (∃ lo hi, s.memRead (s.cfg.base + 0x0C) 4 = some lo ∧ s.memRead (s.cfg.base + 0x10) 4 = some hi
      ∧ s.res.toNat = hi.toNat * 2 ^ 32 + lo.toNat)
    ∧ (∃ lo hi, s.memRead (s.cfg.base + 0x48) 4 = some lo ∧ s.memRead (s.cfg.base + 0x4C) 4 = some hi
      ∧ s.lastNow.toNat = hi.toNat * 2 ^ 32 + lo.toNat)
    ∧ s.memRead (s.cfg.base + 0x14) 4 = some s.ovf
    ∧ (∃ v, s.memRead (s.cfg.base + 0x18) 4 = some v ∧ v.toNat = s.counter.toNat)
    ∧ (∃ v, s.memRead (s.cfg.base + 0x20) 4 = some v ∧ v.toNat = s.sane.toNat)
    ∧ (∃ v, s.memRead (s.cfg.base + 0x30) 4 = some v ∧ v.toNat = s.chans.c0.cc.toNat)
    ∧ (∃ v, s.memRead (s.cfg.base + 0x34) 4 = some v ∧ v.toNat = s.chans.c1.cc.toNat)
    ∧ (∃ v, s.memRead (s.cfg.base + 0x38) 4 = some v ∧ v.toNat = s.chans.c2.cc.toNat)
    ∧ (∃ v, s.memRead (s.cfg.base + 0x3C) 4 = some v ∧ v.toNat = s.chans.c3.cc.toNat)
    ∧ s.memRead (s.cfg.base + 0x1C) 4 =
        some (match s.wake with
              | .cleared => 0
              | .messageReceived => 1
              | .sleepTimerExpired => 2
              | .counterOverflowOrOther => 3
              | .brownoutWarning => 4
              | .hfClockStarted => 5
              | .lfClockStarted => 6
              | .unknown => 7)
    ∧ s.memRead (s.cfg.base + 0x08) 4 =
        some (match s.faultCode with
              | .none => 0
              | .illegalCommand => 1
              | .badIndex => 2
              | .doubleStart => 3
              | .doubleSchedule => 4
              | .saneTimeout => 5
              | .arbReexpiry => 6
              | .arbClockStartup => 7
              | .lfNotStarted => 8
              | .hfPrecondition => 9
              | .busError => 10
              | .monotonicity => 11
              | .illegalContext => 12)

/-! ## Reset and the rules of the whole machine -/

/-- R300: every element's reset value, in every configuration, and what the window reads then. -/
def Obligations.ResetValues : Prop :=
  ∀ p : Params, ∃ s : State, s = State.resetWith p
    ∧ s.res = 0 ∧ s.pc = 0 ∧ s.fgFrame = none ∧ s.fgWaiting = false
    ∧ s.counter = 0 ∧ s.counterRunning = false
    ∧ s.evtOvf = false ∧ s.evtOvfClrPend = false ∧ s.intenOvf = false
    ∧ (∀ ch, (s.chan ch).cc = 0 ∧ (s.chan ch).evt = false ∧ (s.chan ch).inten = false
        ∧ (s.chan ch).uncertain = false)
    ∧ s.ovf = 0 ∧ s.lastNow = 0 ∧ s.poolInit = false
    ∧ (∀ i, (s.timer i).inUse = false ∧ (s.timer i).expired = false ∧ (s.timer i).cbId = 0)
    ∧ s.taskInUse = false ∧ s.taskExpired = false ∧ s.taskId = 0
    ∧ s.wake = .cleared ∧ s.sane = 0xFFFFFF
    ∧ s.lfclk = .stopped ∧ s.hfclk = .stopped
    ∧ s.evtLfStarted = false ∧ s.evtHfStarted = false ∧ s.intenLf = false ∧ s.intenHf = false
    ∧ s.pendTimerSw = false ∧ s.pendRadio = false ∧ s.pendPower = false
    ∧ s.isrActive = false ∧ s.isrFrame = none ∧ s.evLatch = false
    ∧ s.fault = false ∧ s.faultCode = .none ∧ s.history = []
    ∧ (∀ r, r ≠ .cmd → r ≠ .sane → r ≠ .config → s.regValue r = some 0)
    ∧ s.regValue .sane = some 0x00FFFFFF ∧ s.regValue .config = some (configReg p)

/-- The invariant of the machine holds right after reset, in every configuration. -/
def Obligations.InvariantHoldsAtReset : Prop := (∀ p : Params, (State.resetWith p).Inv) ∧ State.reset.Inv

/-- The invariant of the machine is kept by every step: the frames fit their lists' words and `PC`s, a held write only while
busy, waiting only inside `WAIT`, at most one list on the stack, no waiting command in it, `FAULT_CODE` 0 exactly without a
fault, a "started" event only of a running oscillator, a pending clear only of a set overflow event, the clock started as a
whole, and `WAKE` never Unknown (R22, R23, R26, R37, R41, R43, R66, R88, R105, R227, R261). -/
def Obligations.EveryStepKeepsTheInvariant : Prop := ∀ s t : State, s.Inv → step s = .next t → t.Inv

/-- R21, R32, R38, R33, R24, R30, R150: who writes `RES`, `OVF`, `SANE`, `LAST_NOW` and `COUNTER`; who sets a compare enable
and who changes `CBID`. Of R150 the clause on
`CBID` holds of every rule of 41_timer.md, and the pool initialisation of 40_clock.md R105 writes it too. The clauses on the
enables hold of every step but one: a commit, the end of a stop, or the release of the task timer that has been overtaken
(log 18). -/
def Obligations.WritersOfTheSharedRegisters : Prop :=
  ∀ s t : State, step s = .next t →
    (t.res ≠ s.res → ∃ i, s.nextCommand = some i ∧ isQuery i = true)
    ∧ (t.ovf ≠ s.ovf →
        (t.ovf = 0 ∧ (s.nextCommand = some .clkStart ∨ s.nextCommand = some .clkReset0))
        ∨ (t.ovf = s.ovf + 1 ∧ ∃ f, s.handlerNext f .ovfCount))
    ∧ (t.sane ≠ s.sane → s.nextCommand = some (.slpSetSane t.sane))
    ∧ (t.counter ≠ s.counter →
        (t.counter = 0 ∧ s.nextCommand = some .clkStart)
        ∨ (t.counter = s.counter + 1 ∧ ∃ d, s.nextMove = .cnt d))
    ∧ (t.lastNow ≠ s.lastNow → ∃ i, s.nextCommand = some i
        ∧ (i = .clkStart ∨ i = .clkReset0 ∨ i = .clkNow ∨ i = .hfStartDelay ∨ (∃ idx cb d, i = .tmrStart idx cb d)
            ∨ (∃ id d, i = .taskSched id d) ∨ (∃ d, i = .slpTimeout d) ∨ ∃ d, i = .slpDuration d))
    ∧ (∀ ch, (s.chan ch).inten = false → (t.chan ch).inten = true → ∃ i, s.nextCommand = some i ∧ armsATimer i = true)
    ∧ (∀ j, (t.timer j).cbId ≠ (s.timer j).cbId →
        (∃ idx d, s.nextCommand = some (.tmrStart idx (t.timer j).cbId d) ∧ poolIx? s.cfg.nTimers idx = some j
          ∧ (s.timer j).inUse = false)
        ∨ (j = .t0 ∧ (t.timer j).cbId = 0 ∧ (s.timer j).inUse = false
            ∧ ∃ i, s.nextCommand = some i
              ∧ (i = .hfStartDelay ∨ (∃ d, i = .slpTimeout d) ∨ ∃ d, i = .slpDuration d))
        ∨ ((t.timer j).cbId = 0 ∧ s.nextCommand = some .clkStart ∧ s.poolInit = false))
    ∧ (s.enabledInUse = true →
        (s.overtaken = false ∨ (s.nextMove ≠ .fg ∧ ∀ line, s.nextMove ≠ .isr line)) → t.enabledInUse = true)

/-- R1, R12, R25, R27, R34, R220: what no step undoes: the configuration, the history, the running counter, the armed overflow
interrupt, the initialised pool, a started oscillator. -/
def Obligations.NothingPermanentIsUndone : Prop :=
  ∀ s t : State, step s = .next t →
    t.cfg = s.cfg
    ∧ s.history <+: t.history
    ∧ s.fgWords <+: t.fgWords
    ∧ (s.counterRunning = true → t.counterRunning = true)
    ∧ (s.intenOvf = true → t.intenOvf = true)
    ∧ (s.poolInit = true → t.poolInit = true)
    ∧ (s.lfclk = .running → t.lfclk = .running) ∧ (s.lfclk = .starting → t.lfclk ≠ .stopped)
    ∧ (s.hfclk = .running → t.hfclk = .running) ∧ (s.hfclk = .starting → t.hfclk ≠ .stopped)

/-- R22: the foreground `PC` moves by 4 and no other way, and only in a step of `FG`; nothing else moves `FG_FRAME`. In a legal
list (at most 2^30 words) neither the foreground's `PC` nor that of a handler's list wraps or passes the end of its list. -/
def Obligations.ProgramCounterMovesByFour : Prop :=
  ∀ s t : State, step s = .next t →
    ((t.pc = s.pc ∧ t.fgFrame = s.fgFrame)
    ∨ (s.nextMove = .fg ∧ s.fgMayStep = true ∧ (t.pc = s.pc ∨ (t.pc = s.pc + 4 ∧ t.fgFrame = none))))
    ∧ (s.Inv → s.fgWords.length ≤ 2 ^ 30 →
        t.pc.toNat = s.pc.toNat ∨ (t.pc.toNat = s.pc.toNat + 4 ∧ t.pc.toNat ≤ 4 * s.fgWords.length))
    ∧ (∀ (f g : IsrFrame) (l k : ListFrame), s.Inv → s.isrFrame = some f → f.stack = [l] → t.isrFrame = some g →
        g.stack = [k] → (listWords s.cfg l.list).length ≤ 2 ^ 30 →
        k.list = l.list
        ∧ (k.pc.toNat = l.pc.toNat
            ∨ (k.pc.toNat = l.pc.toNat + 4 ∧ k.pc.toNat ≤ 4 * (listWords s.cfg l.list).length)))

/-- The frame of every micro-step of every command: what no command writes, whatever its operands and wherever it stands; and
what the commands of each family leave alone. -/
def Obligations.CommandFrames : Prop :=
  ∀ (i : Instr) (s t : State), exec i s = .next t →
    (t.cfg = s.cfg ∧ t.pendRadio = s.pendRadio ∧ t.pendPower = s.pendPower ∧ t.isrActive = s.isrActive
      ∧ t.evtLfStarted = s.evtLfStarted ∧ t.evtHfStarted = s.evtHfStarted ∧ t.sched = s.sched ∧ t.draws = s.draws)
    ∧ (i ≠ .clkStart →
        t.counter = s.counter ∧ t.counterRunning = s.counterRunning ∧ t.evtOvf = s.evtOvf
        ∧ t.evtOvfClrPend = s.evtOvfClrPend ∧ t.intenOvf = s.intenOvf ∧ t.poolInit = s.poolInit)
    ∧ (isQuery i = false → t.res = s.res)
    ∧ ((isQuery i = true ∨ i = .clkStart ∨ i = .clkReset0 ∨ i = .clkWaitTick) →
        t.wake = s.wake ∧ t.sane = s.sane ∧ t.lfclk = s.lfclk ∧ t.hfclk = s.hfclk ∧ t.intenLf = s.intenLf
        ∧ t.intenHf = s.intenHf ∧ t.evLatch = s.evLatch ∧ t.fgWaiting = s.fgWaiting ∧ t.pendTimerSw = s.pendTimerSw
        ∧ ((i ≠ .clkStart ∨ s.poolInit = true) →
            t.chans = s.chans ∧ t.timers = s.timers ∧ t.taskInUse = s.taskInUse ∧ t.taskExpired = s.taskExpired
            ∧ t.taskId = s.taskId))
    ∧ (∀ idx j, ((∃ cb d, i = .tmrStart idx cb d) ∨ i = .tmrCancel idx) → poolIx? s.cfg.nTimers idx = some j →
        t.wake = s.wake ∧ t.sane = s.sane ∧ t.ovf = s.ovf ∧ t.taskInUse = s.taskInUse
        ∧ t.taskExpired = s.taskExpired ∧ t.taskId = s.taskId ∧ t.evLatch = s.evLatch ∧ t.fgWaiting = s.fgWaiting
        ∧ (∀ k, k ≠ j → t.timer k = s.timer k) ∧ (∀ ch, ch ≠ j.chan → t.chan ch = s.chan ch))
    ∧ (∀ id d, i = .taskSched id d →
        t.wake = s.wake ∧ t.sane = s.sane ∧ t.ovf = s.ovf ∧ t.timers = s.timers ∧ t.evLatch = s.evLatch
        ∧ t.fgWaiting = s.fgWaiting ∧ (∀ ch, ch ≠ .ch3 → t.chan ch = s.chan ch))
    ∧ (((∃ d, i = .slpTimeout d) ∨ (∃ d, i = .slpDuration d) ∨ i = .hfStartDelay) →
        t.sane = s.sane ∧ t.ovf = s.ovf ∧ t.taskInUse = s.taskInUse ∧ t.taskExpired = s.taskExpired
        ∧ t.taskId = s.taskId ∧ t.lfclk = s.lfclk ∧ t.intenLf = s.intenLf ∧ t.intenHf = s.intenHf
        ∧ (i ≠ .hfStartDelay → t.hfclk = s.hfclk)
        ∧ (∀ k, k ≠ .t0 → t.timer k = s.timer k) ∧ (∀ ch, ch ≠ .ch0 → t.chan ch = s.chan ch))
    ∧ ((i = .postMsg ∨ i = .postBrownout ∨ (∃ m, i = .slpSetSane m) ∨ (∃ r, i = .slpUntil r) ∨ i = .lfStart
          ∨ i = .hfStartIrq) →
        t.ovf = s.ovf ∧ t.lastNow = s.lastNow ∧ t.chans = s.chans ∧ t.timers = s.timers
        ∧ t.taskInUse = s.taskInUse ∧ t.taskExpired = s.taskExpired ∧ t.taskId = s.taskId
        ∧ t.pendTimerSw = s.pendTimerSw)

/-- R106, R108, R116, R117: a foreground time query, of CLK.NOW, of the arm of TMR.START, TASK.SCHED and the sleep commands, or
of SLP.DURATION and HF.START.DELAY, is never torn. While no command re-bases the clock and the tally does not wrap, no step of
any agent makes the query in progress a torn one; and where it is not torn, the overflow interrupt is armed and it returns (the
two readings of the tally agree and no fault is raised), the time returned, which is recorded in `LAST_NOW`, is of the present
tally and not later than the present time; CLK.NOW has it in `RES`, and TMR.START and TASK.SCHED go on with its low 24 bits.
Where the readings differ the query starts again. -/
def Obligations.ForegroundTimeIsNeverTorn : Prop :=
  (∀ s t : State, s.nowFits = true → step s = .next t → s.nextCommand ≠ some .clkStart →
    s.nextCommand ≠ some .clkReset0 → s.ovf.toNat ≤ t.ovf.toNat → t.nowFits = true)
  ∧ (∀ (s t : State) (f : CmdFrame) (low : Ticks), s.nextMove = .fg → s.fgMayStep = true → s.intenOvf = true →
      s.nowFits = true → s.fgFrame = some f → f.label.belongsTo f.cmd = true → f.label.query = some (.s3 s.ovf low) →
      step s = .next t → t.fault = false →
      t.lastNow = time s.ovf low ∧ low.toNat ≤ s.counter.toNat
      ∧ t.lastNow.toNat ≤ s.ovf.toNat * 2 ^ 24 + s.counter.toNat
      ∧ (f.cmd = .clkNow → t.fgFrame = none ∧ t.res = (time s.ovf low).setWidth 64)
      ∧ (∀ idx cb d, f.cmd = .tmrStart idx cb d → (poolIx? s.cfg.nTimers idx).isSome = true →
          t.fgFrame = some ⟨f.cmd, .tmrStart (.compare low)⟩)
      ∧ (∀ id d, f.cmd = .taskSched id d → t.fgFrame = some ⟨f.cmd, .taskSched (.compare low)⟩))
  ∧ (∀ (s t : State) (f : CmdFrame) (a : Word) (low : Ticks), s.nextMove = .fg → s.fgMayStep = true →
      s.fgFrame = some f → f.label.belongsTo f.cmd = true → f.label.query = some (.s3 a low) → a ≠ s.ovf →
      step s = .next t → t.fault = false → t.query = some .s1 ∧ t.lastNow = s.lastNow)

/-- R150: every rule keeps "an enabled channel belongs to a timer in use". The rules it is derived from do not give it: a handler that expires the timer between the first micro-step of TMR.START and its commit clears `INUSE`, and the commit
then sets the enable (log 18). This statement is expected to fail. -/
def Obligations.EveryStepKeepsEnabledChannelsInUse : Prop :=
  ∀ s t : State, s.Inv → s.enabledInUse = true → step s = .next t → t.enabledInUse = true
end

