-- ==== Sys2Proof/Laws/State.lean ====
section
/-! SUPPORT. What each state update leaves alone: one lemma for each field of each update. -/

namespace Sys2Proof.Machine

section

variable (s : State) (ch : ChIx) (v : Channel)

@[simp] theorem State.setChan_cfg : (s.setChan ch v).cfg = s.cfg := rfl
@[simp] theorem State.setChan_res : (s.setChan ch v).res = s.res := rfl
@[simp] theorem State.setChan_pc : (s.setChan ch v).pc = s.pc := rfl
@[simp] theorem State.setChan_fgFrame : (s.setChan ch v).fgFrame = s.fgFrame := rfl
@[simp] theorem State.setChan_fgWaiting : (s.setChan ch v).fgWaiting = s.fgWaiting := rfl
@[simp] theorem State.setChan_counter : (s.setChan ch v).counter = s.counter := rfl
@[simp] theorem State.setChan_counterRunning : (s.setChan ch v).counterRunning = s.counterRunning := rfl
@[simp] theorem State.setChan_evtOvf : (s.setChan ch v).evtOvf = s.evtOvf := rfl
@[simp] theorem State.setChan_evtOvfClrPend : (s.setChan ch v).evtOvfClrPend = s.evtOvfClrPend := rfl
@[simp] theorem State.setChan_intenOvf : (s.setChan ch v).intenOvf = s.intenOvf := rfl
@[simp] theorem State.setChan_ovf : (s.setChan ch v).ovf = s.ovf := rfl
@[simp] theorem State.setChan_lastNow : (s.setChan ch v).lastNow = s.lastNow := rfl
@[simp] theorem State.setChan_poolInit : (s.setChan ch v).poolInit = s.poolInit := rfl
@[simp] theorem State.setChan_timers : (s.setChan ch v).timers = s.timers := rfl
@[simp] theorem State.setChan_taskInUse : (s.setChan ch v).taskInUse = s.taskInUse := rfl
@[simp] theorem State.setChan_taskExpired : (s.setChan ch v).taskExpired = s.taskExpired := rfl
@[simp] theorem State.setChan_taskId : (s.setChan ch v).taskId = s.taskId := rfl
@[simp] theorem State.setChan_wake : (s.setChan ch v).wake = s.wake := rfl
@[simp] theorem State.setChan_sane : (s.setChan ch v).sane = s.sane := rfl
@[simp] theorem State.setChan_lfclk : (s.setChan ch v).lfclk = s.lfclk := rfl
@[simp] theorem State.setChan_hfclk : (s.setChan ch v).hfclk = s.hfclk := rfl
@[simp] theorem State.setChan_evtLfStarted : (s.setChan ch v).evtLfStarted = s.evtLfStarted := rfl
@[simp] theorem State.setChan_evtHfStarted : (s.setChan ch v).evtHfStarted = s.evtHfStarted := rfl
@[simp] theorem State.setChan_intenLf : (s.setChan ch v).intenLf = s.intenLf := rfl
@[simp] theorem State.setChan_intenHf : (s.setChan ch v).intenHf = s.intenHf := rfl
@[simp] theorem State.setChan_pendTimerSw : (s.setChan ch v).pendTimerSw = s.pendTimerSw := rfl
@[simp] theorem State.setChan_pendRadio : (s.setChan ch v).pendRadio = s.pendRadio := rfl
@[simp] theorem State.setChan_pendPower : (s.setChan ch v).pendPower = s.pendPower := rfl
@[simp] theorem State.setChan_isrActive : (s.setChan ch v).isrActive = s.isrActive := rfl
@[simp] theorem State.setChan_isrFrame : (s.setChan ch v).isrFrame = s.isrFrame := rfl
@[simp] theorem State.setChan_evLatch : (s.setChan ch v).evLatch = s.evLatch := rfl
@[simp] theorem State.setChan_fault : (s.setChan ch v).fault = s.fault := rfl
@[simp] theorem State.setChan_faultCode : (s.setChan ch v).faultCode = s.faultCode := rfl
@[simp] theorem State.setChan_history : (s.setChan ch v).history = s.history := rfl
@[simp] theorem State.setChan_issued : (s.setChan ch v).issued = s.issued := rfl
@[simp] theorem State.setChan_cmdHeld : (s.setChan ch v).cmdHeld = s.cmdHeld := rfl
@[simp] theorem State.setChan_sched : (s.setChan ch v).sched = s.sched := rfl
@[simp] theorem State.setChan_draws : (s.setChan ch v).draws = s.draws := rfl

end

section

variable (s : State) (i : PoolIx) (v : Timer)

@[simp] theorem State.setTimer_cfg : (s.setTimer i v).cfg = s.cfg := rfl
@[simp] theorem State.setTimer_res : (s.setTimer i v).res = s.res := rfl
@[simp] theorem State.setTimer_pc : (s.setTimer i v).pc = s.pc := rfl
@[simp] theorem State.setTimer_fgFrame : (s.setTimer i v).fgFrame = s.fgFrame := rfl
@[simp] theorem State.setTimer_fgWaiting : (s.setTimer i v).fgWaiting = s.fgWaiting := rfl
@[simp] theorem State.setTimer_counter : (s.setTimer i v).counter = s.counter := rfl
@[simp] theorem State.setTimer_counterRunning : (s.setTimer i v).counterRunning = s.counterRunning := rfl
@[simp] theorem State.setTimer_evtOvf : (s.setTimer i v).evtOvf = s.evtOvf := rfl
@[simp] theorem State.setTimer_evtOvfClrPend : (s.setTimer i v).evtOvfClrPend = s.evtOvfClrPend := rfl
@[simp] theorem State.setTimer_intenOvf : (s.setTimer i v).intenOvf = s.intenOvf := rfl
@[simp] theorem State.setTimer_chans : (s.setTimer i v).chans = s.chans := rfl
@[simp] theorem State.setTimer_ovf : (s.setTimer i v).ovf = s.ovf := rfl
@[simp] theorem State.setTimer_lastNow : (s.setTimer i v).lastNow = s.lastNow := rfl
@[simp] theorem State.setTimer_poolInit : (s.setTimer i v).poolInit = s.poolInit := rfl
@[simp] theorem State.setTimer_taskInUse : (s.setTimer i v).taskInUse = s.taskInUse := rfl
@[simp] theorem State.setTimer_taskExpired : (s.setTimer i v).taskExpired = s.taskExpired := rfl
@[simp] theorem State.setTimer_taskId : (s.setTimer i v).taskId = s.taskId := rfl
@[simp] theorem State.setTimer_wake : (s.setTimer i v).wake = s.wake := rfl
@[simp] theorem State.setTimer_sane : (s.setTimer i v).sane = s.sane := rfl
@[simp] theorem State.setTimer_lfclk : (s.setTimer i v).lfclk = s.lfclk := rfl
@[simp] theorem State.setTimer_hfclk : (s.setTimer i v).hfclk = s.hfclk := rfl
@[simp] theorem State.setTimer_evtLfStarted : (s.setTimer i v).evtLfStarted = s.evtLfStarted := rfl
@[simp] theorem State.setTimer_evtHfStarted : (s.setTimer i v).evtHfStarted = s.evtHfStarted := rfl
@[simp] theorem State.setTimer_intenLf : (s.setTimer i v).intenLf = s.intenLf := rfl
@[simp] theorem State.setTimer_intenHf : (s.setTimer i v).intenHf = s.intenHf := rfl
@[simp] theorem State.setTimer_pendTimerSw : (s.setTimer i v).pendTimerSw = s.pendTimerSw := rfl
@[simp] theorem State.setTimer_pendRadio : (s.setTimer i v).pendRadio = s.pendRadio := rfl
@[simp] theorem State.setTimer_pendPower : (s.setTimer i v).pendPower = s.pendPower := rfl
@[simp] theorem State.setTimer_isrActive : (s.setTimer i v).isrActive = s.isrActive := rfl
@[simp] theorem State.setTimer_isrFrame : (s.setTimer i v).isrFrame = s.isrFrame := rfl
@[simp] theorem State.setTimer_evLatch : (s.setTimer i v).evLatch = s.evLatch := rfl
@[simp] theorem State.setTimer_fault : (s.setTimer i v).fault = s.fault := rfl
@[simp] theorem State.setTimer_faultCode : (s.setTimer i v).faultCode = s.faultCode := rfl
@[simp] theorem State.setTimer_history : (s.setTimer i v).history = s.history := rfl
@[simp] theorem State.setTimer_issued : (s.setTimer i v).issued = s.issued := rfl
@[simp] theorem State.setTimer_cmdHeld : (s.setTimer i v).cmdHeld = s.cmdHeld := rfl
@[simp] theorem State.setTimer_sched : (s.setTimer i v).sched = s.sched := rfl
@[simp] theorem State.setTimer_draws : (s.setTimer i v).draws = s.draws := rfl

end

section

variable (s : State) (e : Event)

@[simp] theorem State.emit_cfg : (s.emit e).cfg = s.cfg := rfl
@[simp] theorem State.emit_res : (s.emit e).res = s.res := rfl
@[simp] theorem State.emit_pc : (s.emit e).pc = s.pc := rfl
@[simp] theorem State.emit_fgFrame : (s.emit e).fgFrame = s.fgFrame := rfl
@[simp] theorem State.emit_fgWaiting : (s.emit e).fgWaiting = s.fgWaiting := rfl
@[simp] theorem State.emit_counter : (s.emit e).counter = s.counter := rfl
@[simp] theorem State.emit_counterRunning : (s.emit e).counterRunning = s.counterRunning := rfl
@[simp] theorem State.emit_evtOvf : (s.emit e).evtOvf = s.evtOvf := rfl
@[simp] theorem State.emit_evtOvfClrPend : (s.emit e).evtOvfClrPend = s.evtOvfClrPend := rfl
@[simp] theorem State.emit_intenOvf : (s.emit e).intenOvf = s.intenOvf := rfl
@[simp] theorem State.emit_chans : (s.emit e).chans = s.chans := rfl
@[simp] theorem State.emit_ovf : (s.emit e).ovf = s.ovf := rfl
@[simp] theorem State.emit_lastNow : (s.emit e).lastNow = s.lastNow := rfl
@[simp] theorem State.emit_poolInit : (s.emit e).poolInit = s.poolInit := rfl
@[simp] theorem State.emit_timers : (s.emit e).timers = s.timers := rfl
@[simp] theorem State.emit_taskInUse : (s.emit e).taskInUse = s.taskInUse := rfl
@[simp] theorem State.emit_taskExpired : (s.emit e).taskExpired = s.taskExpired := rfl
@[simp] theorem State.emit_taskId : (s.emit e).taskId = s.taskId := rfl
@[simp] theorem State.emit_wake : (s.emit e).wake = s.wake := rfl
@[simp] theorem State.emit_sane : (s.emit e).sane = s.sane := rfl
@[simp] theorem State.emit_lfclk : (s.emit e).lfclk = s.lfclk := rfl
@[simp] theorem State.emit_hfclk : (s.emit e).hfclk = s.hfclk := rfl
@[simp] theorem State.emit_evtLfStarted : (s.emit e).evtLfStarted = s.evtLfStarted := rfl
@[simp] theorem State.emit_evtHfStarted : (s.emit e).evtHfStarted = s.evtHfStarted := rfl
@[simp] theorem State.emit_intenLf : (s.emit e).intenLf = s.intenLf := rfl
@[simp] theorem State.emit_intenHf : (s.emit e).intenHf = s.intenHf := rfl
@[simp] theorem State.emit_pendTimerSw : (s.emit e).pendTimerSw = s.pendTimerSw := rfl
@[simp] theorem State.emit_pendRadio : (s.emit e).pendRadio = s.pendRadio := rfl
@[simp] theorem State.emit_pendPower : (s.emit e).pendPower = s.pendPower := rfl
@[simp] theorem State.emit_isrActive : (s.emit e).isrActive = s.isrActive := rfl
@[simp] theorem State.emit_isrFrame : (s.emit e).isrFrame = s.isrFrame := rfl
@[simp] theorem State.emit_evLatch : (s.emit e).evLatch = s.evLatch := rfl
@[simp] theorem State.emit_fault : (s.emit e).fault = s.fault := rfl
@[simp] theorem State.emit_faultCode : (s.emit e).faultCode = s.faultCode := rfl
@[simp] theorem State.emit_issued : (s.emit e).issued = s.issued := rfl
@[simp] theorem State.emit_cmdHeld : (s.emit e).cmdHeld = s.cmdHeld := rfl
@[simp] theorem State.emit_sched : (s.emit e).sched = s.sched := rfl
@[simp] theorem State.emit_draws : (s.emit e).draws = s.draws := rfl

end

section

variable (s : State)

@[simp] theorem State.clearWake_cfg : (s.clearWake).cfg = s.cfg := rfl
@[simp] theorem State.clearWake_res : (s.clearWake).res = s.res := rfl
@[simp] theorem State.clearWake_pc : (s.clearWake).pc = s.pc := rfl
@[simp] theorem State.clearWake_fgFrame : (s.clearWake).fgFrame = s.fgFrame := rfl
@[simp] theorem State.clearWake_fgWaiting : (s.clearWake).fgWaiting = s.fgWaiting := rfl
@[simp] theorem State.clearWake_counter : (s.clearWake).counter = s.counter := rfl
@[simp] theorem State.clearWake_counterRunning : (s.clearWake).counterRunning = s.counterRunning := rfl
@[simp] theorem State.clearWake_evtOvf : (s.clearWake).evtOvf = s.evtOvf := rfl
@[simp] theorem State.clearWake_evtOvfClrPend : (s.clearWake).evtOvfClrPend = s.evtOvfClrPend := rfl
@[simp] theorem State.clearWake_intenOvf : (s.clearWake).intenOvf = s.intenOvf := rfl
@[simp] theorem State.clearWake_chans : (s.clearWake).chans = s.chans := rfl
@[simp] theorem State.clearWake_ovf : (s.clearWake).ovf = s.ovf := rfl
@[simp] theorem State.clearWake_lastNow : (s.clearWake).lastNow = s.lastNow := rfl
@[simp] theorem State.clearWake_poolInit : (s.clearWake).poolInit = s.poolInit := rfl
@[simp] theorem State.clearWake_timers : (s.clearWake).timers = s.timers := rfl
@[simp] theorem State.clearWake_taskInUse : (s.clearWake).taskInUse = s.taskInUse := rfl
@[simp] theorem State.clearWake_taskExpired : (s.clearWake).taskExpired = s.taskExpired := rfl
@[simp] theorem State.clearWake_taskId : (s.clearWake).taskId = s.taskId := rfl
@[simp] theorem State.clearWake_sane : (s.clearWake).sane = s.sane := rfl
@[simp] theorem State.clearWake_lfclk : (s.clearWake).lfclk = s.lfclk := rfl
@[simp] theorem State.clearWake_hfclk : (s.clearWake).hfclk = s.hfclk := rfl
@[simp] theorem State.clearWake_evtLfStarted : (s.clearWake).evtLfStarted = s.evtLfStarted := rfl
@[simp] theorem State.clearWake_evtHfStarted : (s.clearWake).evtHfStarted = s.evtHfStarted := rfl
@[simp] theorem State.clearWake_intenLf : (s.clearWake).intenLf = s.intenLf := rfl
@[simp] theorem State.clearWake_intenHf : (s.clearWake).intenHf = s.intenHf := rfl
@[simp] theorem State.clearWake_pendTimerSw : (s.clearWake).pendTimerSw = s.pendTimerSw := rfl
@[simp] theorem State.clearWake_pendRadio : (s.clearWake).pendRadio = s.pendRadio := rfl
@[simp] theorem State.clearWake_pendPower : (s.clearWake).pendPower = s.pendPower := rfl
@[simp] theorem State.clearWake_isrActive : (s.clearWake).isrActive = s.isrActive := rfl
@[simp] theorem State.clearWake_isrFrame : (s.clearWake).isrFrame = s.isrFrame := rfl
@[simp] theorem State.clearWake_evLatch : (s.clearWake).evLatch = s.evLatch := rfl
@[simp] theorem State.clearWake_fault : (s.clearWake).fault = s.fault := rfl
@[simp] theorem State.clearWake_faultCode : (s.clearWake).faultCode = s.faultCode := rfl
@[simp] theorem State.clearWake_history : (s.clearWake).history = s.history := rfl
@[simp] theorem State.clearWake_issued : (s.clearWake).issued = s.issued := rfl
@[simp] theorem State.clearWake_cmdHeld : (s.clearWake).cmdHeld = s.cmdHeld := rfl
@[simp] theorem State.clearWake_sched : (s.clearWake).sched = s.sched := rfl
@[simp] theorem State.clearWake_draws : (s.clearWake).draws = s.draws := rfl

end

section

variable (s : State)

@[simp] theorem State.acceptHeld_cfg : (s.acceptHeld).cfg = s.cfg := rfl
@[simp] theorem State.acceptHeld_res : (s.acceptHeld).res = s.res := rfl
@[simp] theorem State.acceptHeld_pc : (s.acceptHeld).pc = s.pc := rfl
@[simp] theorem State.acceptHeld_fgFrame : (s.acceptHeld).fgFrame = s.fgFrame := rfl
@[simp] theorem State.acceptHeld_fgWaiting : (s.acceptHeld).fgWaiting = s.fgWaiting := rfl
@[simp] theorem State.acceptHeld_counter : (s.acceptHeld).counter = s.counter := rfl
@[simp] theorem State.acceptHeld_counterRunning : (s.acceptHeld).counterRunning = s.counterRunning := rfl
@[simp] theorem State.acceptHeld_evtOvf : (s.acceptHeld).evtOvf = s.evtOvf := rfl
@[simp] theorem State.acceptHeld_evtOvfClrPend : (s.acceptHeld).evtOvfClrPend = s.evtOvfClrPend := rfl
@[simp] theorem State.acceptHeld_intenOvf : (s.acceptHeld).intenOvf = s.intenOvf := rfl
@[simp] theorem State.acceptHeld_chans : (s.acceptHeld).chans = s.chans := rfl
@[simp] theorem State.acceptHeld_ovf : (s.acceptHeld).ovf = s.ovf := rfl
@[simp] theorem State.acceptHeld_lastNow : (s.acceptHeld).lastNow = s.lastNow := rfl
@[simp] theorem State.acceptHeld_poolInit : (s.acceptHeld).poolInit = s.poolInit := rfl
@[simp] theorem State.acceptHeld_timers : (s.acceptHeld).timers = s.timers := rfl
@[simp] theorem State.acceptHeld_taskInUse : (s.acceptHeld).taskInUse = s.taskInUse := rfl
@[simp] theorem State.acceptHeld_taskExpired : (s.acceptHeld).taskExpired = s.taskExpired := rfl
@[simp] theorem State.acceptHeld_taskId : (s.acceptHeld).taskId = s.taskId := rfl
@[simp] theorem State.acceptHeld_wake : (s.acceptHeld).wake = s.wake := rfl
@[simp] theorem State.acceptHeld_sane : (s.acceptHeld).sane = s.sane := rfl
@[simp] theorem State.acceptHeld_lfclk : (s.acceptHeld).lfclk = s.lfclk := rfl
@[simp] theorem State.acceptHeld_hfclk : (s.acceptHeld).hfclk = s.hfclk := rfl
@[simp] theorem State.acceptHeld_evtLfStarted : (s.acceptHeld).evtLfStarted = s.evtLfStarted := rfl
@[simp] theorem State.acceptHeld_evtHfStarted : (s.acceptHeld).evtHfStarted = s.evtHfStarted := rfl
@[simp] theorem State.acceptHeld_intenLf : (s.acceptHeld).intenLf = s.intenLf := rfl
@[simp] theorem State.acceptHeld_intenHf : (s.acceptHeld).intenHf = s.intenHf := rfl
@[simp] theorem State.acceptHeld_pendTimerSw : (s.acceptHeld).pendTimerSw = s.pendTimerSw := rfl
@[simp] theorem State.acceptHeld_pendRadio : (s.acceptHeld).pendRadio = s.pendRadio := rfl
@[simp] theorem State.acceptHeld_pendPower : (s.acceptHeld).pendPower = s.pendPower := rfl
@[simp] theorem State.acceptHeld_isrActive : (s.acceptHeld).isrActive = s.isrActive := rfl
@[simp] theorem State.acceptHeld_isrFrame : (s.acceptHeld).isrFrame = s.isrFrame := rfl
@[simp] theorem State.acceptHeld_evLatch : (s.acceptHeld).evLatch = s.evLatch := rfl
@[simp] theorem State.acceptHeld_fault : (s.acceptHeld).fault = s.fault := rfl
@[simp] theorem State.acceptHeld_faultCode : (s.acceptHeld).faultCode = s.faultCode := rfl
@[simp] theorem State.acceptHeld_history : (s.acceptHeld).history = s.history := rfl
@[simp] theorem State.acceptHeld_sched : (s.acceptHeld).sched = s.sched := rfl
@[simp] theorem State.acceptHeld_draws : (s.acceptHeld).draws = s.draws := rfl

end

section

variable (s : State) (line : Line)

@[simp] theorem State.enter_cfg : (s.enter line).cfg = s.cfg := rfl
@[simp] theorem State.enter_res : (s.enter line).res = s.res := rfl
@[simp] theorem State.enter_pc : (s.enter line).pc = s.pc := rfl
@[simp] theorem State.enter_fgFrame : (s.enter line).fgFrame = s.fgFrame := rfl
@[simp] theorem State.enter_fgWaiting : (s.enter line).fgWaiting = s.fgWaiting := rfl
@[simp] theorem State.enter_counter : (s.enter line).counter = s.counter := rfl
@[simp] theorem State.enter_counterRunning : (s.enter line).counterRunning = s.counterRunning := rfl
@[simp] theorem State.enter_evtOvf : (s.enter line).evtOvf = s.evtOvf := rfl
@[simp] theorem State.enter_evtOvfClrPend : (s.enter line).evtOvfClrPend = s.evtOvfClrPend := rfl
@[simp] theorem State.enter_intenOvf : (s.enter line).intenOvf = s.intenOvf := rfl
@[simp] theorem State.enter_chans : (s.enter line).chans = s.chans := rfl
@[simp] theorem State.enter_ovf : (s.enter line).ovf = s.ovf := rfl
@[simp] theorem State.enter_lastNow : (s.enter line).lastNow = s.lastNow := rfl
@[simp] theorem State.enter_poolInit : (s.enter line).poolInit = s.poolInit := rfl
@[simp] theorem State.enter_timers : (s.enter line).timers = s.timers := rfl
@[simp] theorem State.enter_taskInUse : (s.enter line).taskInUse = s.taskInUse := rfl
@[simp] theorem State.enter_taskExpired : (s.enter line).taskExpired = s.taskExpired := rfl
@[simp] theorem State.enter_taskId : (s.enter line).taskId = s.taskId := rfl
@[simp] theorem State.enter_wake : (s.enter line).wake = s.wake := rfl
@[simp] theorem State.enter_sane : (s.enter line).sane = s.sane := rfl
@[simp] theorem State.enter_lfclk : (s.enter line).lfclk = s.lfclk := rfl
@[simp] theorem State.enter_hfclk : (s.enter line).hfclk = s.hfclk := rfl
@[simp] theorem State.enter_evtLfStarted : (s.enter line).evtLfStarted = s.evtLfStarted := rfl
@[simp] theorem State.enter_evtHfStarted : (s.enter line).evtHfStarted = s.evtHfStarted := rfl
@[simp] theorem State.enter_intenLf : (s.enter line).intenLf = s.intenLf := rfl
@[simp] theorem State.enter_intenHf : (s.enter line).intenHf = s.intenHf := rfl
@[simp] theorem State.enter_evLatch : (s.enter line).evLatch = s.evLatch := rfl
@[simp] theorem State.enter_fault : (s.enter line).fault = s.fault := rfl
@[simp] theorem State.enter_faultCode : (s.enter line).faultCode = s.faultCode := rfl
@[simp] theorem State.enter_issued : (s.enter line).issued = s.issued := rfl
@[simp] theorem State.enter_cmdHeld : (s.enter line).cmdHeld = s.cmdHeld := rfl
@[simp] theorem State.enter_sched : (s.enter line).sched = s.sched := rfl
@[simp] theorem State.enter_draws : (s.enter line).draws = s.draws := rfl

end

section

variable (s : State)

@[simp] theorem State.leave_cfg : (s.leave).cfg = s.cfg := rfl
@[simp] theorem State.leave_res : (s.leave).res = s.res := rfl
@[simp] theorem State.leave_pc : (s.leave).pc = s.pc := rfl
@[simp] theorem State.leave_fgFrame : (s.leave).fgFrame = s.fgFrame := rfl
@[simp] theorem State.leave_counter : (s.leave).counter = s.counter := rfl
@[simp] theorem State.leave_counterRunning : (s.leave).counterRunning = s.counterRunning := rfl
@[simp] theorem State.leave_evtOvf : (s.leave).evtOvf = s.evtOvf := rfl
@[simp] theorem State.leave_evtOvfClrPend : (s.leave).evtOvfClrPend = s.evtOvfClrPend := rfl
@[simp] theorem State.leave_intenOvf : (s.leave).intenOvf = s.intenOvf := rfl
@[simp] theorem State.leave_chans : (s.leave).chans = s.chans := rfl
@[simp] theorem State.leave_ovf : (s.leave).ovf = s.ovf := rfl
@[simp] theorem State.leave_lastNow : (s.leave).lastNow = s.lastNow := rfl
@[simp] theorem State.leave_poolInit : (s.leave).poolInit = s.poolInit := rfl
@[simp] theorem State.leave_timers : (s.leave).timers = s.timers := rfl
@[simp] theorem State.leave_taskInUse : (s.leave).taskInUse = s.taskInUse := rfl
@[simp] theorem State.leave_taskExpired : (s.leave).taskExpired = s.taskExpired := rfl
@[simp] theorem State.leave_taskId : (s.leave).taskId = s.taskId := rfl
@[simp] theorem State.leave_wake : (s.leave).wake = s.wake := rfl
@[simp] theorem State.leave_sane : (s.leave).sane = s.sane := rfl
@[simp] theorem State.leave_lfclk : (s.leave).lfclk = s.lfclk := rfl
@[simp] theorem State.leave_hfclk : (s.leave).hfclk = s.hfclk := rfl
@[simp] theorem State.leave_evtLfStarted : (s.leave).evtLfStarted = s.evtLfStarted := rfl
@[simp] theorem State.leave_evtHfStarted : (s.leave).evtHfStarted = s.evtHfStarted := rfl
@[simp] theorem State.leave_intenLf : (s.leave).intenLf = s.intenLf := rfl
@[simp] theorem State.leave_intenHf : (s.leave).intenHf = s.intenHf := rfl
@[simp] theorem State.leave_pendTimerSw : (s.leave).pendTimerSw = s.pendTimerSw := rfl
@[simp] theorem State.leave_pendRadio : (s.leave).pendRadio = s.pendRadio := rfl
@[simp] theorem State.leave_pendPower : (s.leave).pendPower = s.pendPower := rfl
@[simp] theorem State.leave_fault : (s.leave).fault = s.fault := rfl
@[simp] theorem State.leave_faultCode : (s.leave).faultCode = s.faultCode := rfl
@[simp] theorem State.leave_history : (s.leave).history = s.history := rfl
@[simp] theorem State.leave_issued : (s.leave).issued = s.issued := rfl
@[simp] theorem State.leave_cmdHeld : (s.leave).cmdHeld = s.cmdHeld := rfl
@[simp] theorem State.leave_sched : (s.leave).sched = s.sched := rfl
@[simp] theorem State.leave_draws : (s.leave).draws = s.draws := rfl

end

section

variable (s : State) (f : IsrFrame) (l : HandlerLabel)

@[simp] theorem State.atHandler_cfg : (s.atHandler f l).cfg = s.cfg := rfl
@[simp] theorem State.atHandler_res : (s.atHandler f l).res = s.res := rfl
@[simp] theorem State.atHandler_pc : (s.atHandler f l).pc = s.pc := rfl
@[simp] theorem State.atHandler_fgFrame : (s.atHandler f l).fgFrame = s.fgFrame := rfl
@[simp] theorem State.atHandler_fgWaiting : (s.atHandler f l).fgWaiting = s.fgWaiting := rfl
@[simp] theorem State.atHandler_counter : (s.atHandler f l).counter = s.counter := rfl
@[simp] theorem State.atHandler_counterRunning : (s.atHandler f l).counterRunning = s.counterRunning := rfl
@[simp] theorem State.atHandler_evtOvf : (s.atHandler f l).evtOvf = s.evtOvf := rfl
@[simp] theorem State.atHandler_evtOvfClrPend : (s.atHandler f l).evtOvfClrPend = s.evtOvfClrPend := rfl
@[simp] theorem State.atHandler_intenOvf : (s.atHandler f l).intenOvf = s.intenOvf := rfl
@[simp] theorem State.atHandler_chans : (s.atHandler f l).chans = s.chans := rfl
@[simp] theorem State.atHandler_ovf : (s.atHandler f l).ovf = s.ovf := rfl
@[simp] theorem State.atHandler_lastNow : (s.atHandler f l).lastNow = s.lastNow := rfl
@[simp] theorem State.atHandler_poolInit : (s.atHandler f l).poolInit = s.poolInit := rfl
@[simp] theorem State.atHandler_timers : (s.atHandler f l).timers = s.timers := rfl
@[simp] theorem State.atHandler_taskInUse : (s.atHandler f l).taskInUse = s.taskInUse := rfl
@[simp] theorem State.atHandler_taskExpired : (s.atHandler f l).taskExpired = s.taskExpired := rfl
@[simp] theorem State.atHandler_taskId : (s.atHandler f l).taskId = s.taskId := rfl
@[simp] theorem State.atHandler_wake : (s.atHandler f l).wake = s.wake := rfl
@[simp] theorem State.atHandler_sane : (s.atHandler f l).sane = s.sane := rfl
@[simp] theorem State.atHandler_lfclk : (s.atHandler f l).lfclk = s.lfclk := rfl
@[simp] theorem State.atHandler_hfclk : (s.atHandler f l).hfclk = s.hfclk := rfl
@[simp] theorem State.atHandler_evtLfStarted : (s.atHandler f l).evtLfStarted = s.evtLfStarted := rfl
@[simp] theorem State.atHandler_evtHfStarted : (s.atHandler f l).evtHfStarted = s.evtHfStarted := rfl
@[simp] theorem State.atHandler_intenLf : (s.atHandler f l).intenLf = s.intenLf := rfl
@[simp] theorem State.atHandler_intenHf : (s.atHandler f l).intenHf = s.intenHf := rfl
@[simp] theorem State.atHandler_pendTimerSw : (s.atHandler f l).pendTimerSw = s.pendTimerSw := rfl
@[simp] theorem State.atHandler_pendRadio : (s.atHandler f l).pendRadio = s.pendRadio := rfl
@[simp] theorem State.atHandler_pendPower : (s.atHandler f l).pendPower = s.pendPower := rfl
@[simp] theorem State.atHandler_isrActive : (s.atHandler f l).isrActive = s.isrActive := rfl
@[simp] theorem State.atHandler_evLatch : (s.atHandler f l).evLatch = s.evLatch := rfl
@[simp] theorem State.atHandler_fault : (s.atHandler f l).fault = s.fault := rfl
@[simp] theorem State.atHandler_faultCode : (s.atHandler f l).faultCode = s.faultCode := rfl
@[simp] theorem State.atHandler_history : (s.atHandler f l).history = s.history := rfl
@[simp] theorem State.atHandler_issued : (s.atHandler f l).issued = s.issued := rfl
@[simp] theorem State.atHandler_cmdHeld : (s.atHandler f l).cmdHeld = s.cmdHeld := rfl
@[simp] theorem State.atHandler_sched : (s.atHandler f l).sched = s.sched := rfl
@[simp] theorem State.atHandler_draws : (s.atHandler f l).draws = s.draws := rfl

end

section

variable (s : State) (f : IsrFrame) (next : HandlerLabel) (list : ListId)

@[simp] theorem State.pushList_cfg : (s.pushList f next list).cfg = s.cfg := rfl
@[simp] theorem State.pushList_res : (s.pushList f next list).res = s.res := rfl
@[simp] theorem State.pushList_pc : (s.pushList f next list).pc = s.pc := rfl
@[simp] theorem State.pushList_fgFrame : (s.pushList f next list).fgFrame = s.fgFrame := rfl
@[simp] theorem State.pushList_fgWaiting : (s.pushList f next list).fgWaiting = s.fgWaiting := rfl
@[simp] theorem State.pushList_counter : (s.pushList f next list).counter = s.counter := rfl
@[simp] theorem State.pushList_counterRunning : (s.pushList f next list).counterRunning = s.counterRunning := rfl
@[simp] theorem State.pushList_evtOvf : (s.pushList f next list).evtOvf = s.evtOvf := rfl
@[simp] theorem State.pushList_evtOvfClrPend : (s.pushList f next list).evtOvfClrPend = s.evtOvfClrPend := rfl
@[simp] theorem State.pushList_intenOvf : (s.pushList f next list).intenOvf = s.intenOvf := rfl
@[simp] theorem State.pushList_chans : (s.pushList f next list).chans = s.chans := rfl
@[simp] theorem State.pushList_ovf : (s.pushList f next list).ovf = s.ovf := rfl
@[simp] theorem State.pushList_lastNow : (s.pushList f next list).lastNow = s.lastNow := rfl
@[simp] theorem State.pushList_poolInit : (s.pushList f next list).poolInit = s.poolInit := rfl
@[simp] theorem State.pushList_timers : (s.pushList f next list).timers = s.timers := rfl
@[simp] theorem State.pushList_taskInUse : (s.pushList f next list).taskInUse = s.taskInUse := rfl
@[simp] theorem State.pushList_taskExpired : (s.pushList f next list).taskExpired = s.taskExpired := rfl
@[simp] theorem State.pushList_taskId : (s.pushList f next list).taskId = s.taskId := rfl
@[simp] theorem State.pushList_wake : (s.pushList f next list).wake = s.wake := rfl
@[simp] theorem State.pushList_sane : (s.pushList f next list).sane = s.sane := rfl
@[simp] theorem State.pushList_lfclk : (s.pushList f next list).lfclk = s.lfclk := rfl
@[simp] theorem State.pushList_hfclk : (s.pushList f next list).hfclk = s.hfclk := rfl
@[simp] theorem State.pushList_evtLfStarted : (s.pushList f next list).evtLfStarted = s.evtLfStarted := rfl
@[simp] theorem State.pushList_evtHfStarted : (s.pushList f next list).evtHfStarted = s.evtHfStarted := rfl
@[simp] theorem State.pushList_intenLf : (s.pushList f next list).intenLf = s.intenLf := rfl
@[simp] theorem State.pushList_intenHf : (s.pushList f next list).intenHf = s.intenHf := rfl
@[simp] theorem State.pushList_pendTimerSw : (s.pushList f next list).pendTimerSw = s.pendTimerSw := rfl
@[simp] theorem State.pushList_pendRadio : (s.pushList f next list).pendRadio = s.pendRadio := rfl
@[simp] theorem State.pushList_pendPower : (s.pushList f next list).pendPower = s.pendPower := rfl
@[simp] theorem State.pushList_isrActive : (s.pushList f next list).isrActive = s.isrActive := rfl
@[simp] theorem State.pushList_evLatch : (s.pushList f next list).evLatch = s.evLatch := rfl
@[simp] theorem State.pushList_fault : (s.pushList f next list).fault = s.fault := rfl
@[simp] theorem State.pushList_faultCode : (s.pushList f next list).faultCode = s.faultCode := rfl
@[simp] theorem State.pushList_history : (s.pushList f next list).history = s.history := rfl
@[simp] theorem State.pushList_issued : (s.pushList f next list).issued = s.issued := rfl
@[simp] theorem State.pushList_cmdHeld : (s.pushList f next list).cmdHeld = s.cmdHeld := rfl
@[simp] theorem State.pushList_sched : (s.pushList f next list).sched = s.sched := rfl
@[simp] theorem State.pushList_draws : (s.pushList f next list).draws = s.draws := rfl

end

section

variable (s : State) (f : IsrFrame)

@[simp] theorem State.popList_cfg : (s.popList f).cfg = s.cfg := rfl
@[simp] theorem State.popList_res : (s.popList f).res = s.res := rfl
@[simp] theorem State.popList_pc : (s.popList f).pc = s.pc := rfl
@[simp] theorem State.popList_fgFrame : (s.popList f).fgFrame = s.fgFrame := rfl
@[simp] theorem State.popList_fgWaiting : (s.popList f).fgWaiting = s.fgWaiting := rfl
@[simp] theorem State.popList_counter : (s.popList f).counter = s.counter := rfl
@[simp] theorem State.popList_counterRunning : (s.popList f).counterRunning = s.counterRunning := rfl
@[simp] theorem State.popList_evtOvf : (s.popList f).evtOvf = s.evtOvf := rfl
@[simp] theorem State.popList_evtOvfClrPend : (s.popList f).evtOvfClrPend = s.evtOvfClrPend := rfl
@[simp] theorem State.popList_intenOvf : (s.popList f).intenOvf = s.intenOvf := rfl
@[simp] theorem State.popList_chans : (s.popList f).chans = s.chans := rfl
@[simp] theorem State.popList_ovf : (s.popList f).ovf = s.ovf := rfl
@[simp] theorem State.popList_lastNow : (s.popList f).lastNow = s.lastNow := rfl
@[simp] theorem State.popList_poolInit : (s.popList f).poolInit = s.poolInit := rfl
@[simp] theorem State.popList_timers : (s.popList f).timers = s.timers := rfl
@[simp] theorem State.popList_taskInUse : (s.popList f).taskInUse = s.taskInUse := rfl
@[simp] theorem State.popList_taskExpired : (s.popList f).taskExpired = s.taskExpired := rfl
@[simp] theorem State.popList_taskId : (s.popList f).taskId = s.taskId := rfl
@[simp] theorem State.popList_wake : (s.popList f).wake = s.wake := rfl
@[simp] theorem State.popList_sane : (s.popList f).sane = s.sane := rfl
@[simp] theorem State.popList_lfclk : (s.popList f).lfclk = s.lfclk := rfl
@[simp] theorem State.popList_hfclk : (s.popList f).hfclk = s.hfclk := rfl
@[simp] theorem State.popList_evtLfStarted : (s.popList f).evtLfStarted = s.evtLfStarted := rfl
@[simp] theorem State.popList_evtHfStarted : (s.popList f).evtHfStarted = s.evtHfStarted := rfl
@[simp] theorem State.popList_intenLf : (s.popList f).intenLf = s.intenLf := rfl
@[simp] theorem State.popList_intenHf : (s.popList f).intenHf = s.intenHf := rfl
@[simp] theorem State.popList_pendTimerSw : (s.popList f).pendTimerSw = s.pendTimerSw := rfl
@[simp] theorem State.popList_pendRadio : (s.popList f).pendRadio = s.pendRadio := rfl
@[simp] theorem State.popList_pendPower : (s.popList f).pendPower = s.pendPower := rfl
@[simp] theorem State.popList_isrActive : (s.popList f).isrActive = s.isrActive := rfl
@[simp] theorem State.popList_evLatch : (s.popList f).evLatch = s.evLatch := rfl
@[simp] theorem State.popList_fault : (s.popList f).fault = s.fault := rfl
@[simp] theorem State.popList_faultCode : (s.popList f).faultCode = s.faultCode := rfl
@[simp] theorem State.popList_history : (s.popList f).history = s.history := rfl
@[simp] theorem State.popList_issued : (s.popList f).issued = s.issued := rfl
@[simp] theorem State.popList_cmdHeld : (s.popList f).cmdHeld = s.cmdHeld := rfl
@[simp] theorem State.popList_sched : (s.popList f).sched = s.sched := rfl
@[simp] theorem State.popList_draws : (s.popList f).draws = s.draws := rfl

end

section

variable (s : State) (ch : ChIx) (v : Ticks)

@[simp] theorem State.writeCompare_cfg : (s.writeCompare ch v).cfg = s.cfg := rfl
@[simp] theorem State.writeCompare_res : (s.writeCompare ch v).res = s.res := rfl
@[simp] theorem State.writeCompare_pc : (s.writeCompare ch v).pc = s.pc := rfl
@[simp] theorem State.writeCompare_fgFrame : (s.writeCompare ch v).fgFrame = s.fgFrame := rfl
@[simp] theorem State.writeCompare_fgWaiting : (s.writeCompare ch v).fgWaiting = s.fgWaiting := rfl
@[simp] theorem State.writeCompare_counter : (s.writeCompare ch v).counter = s.counter := rfl
@[simp] theorem State.writeCompare_counterRunning : (s.writeCompare ch v).counterRunning = s.counterRunning := rfl
@[simp] theorem State.writeCompare_evtOvf : (s.writeCompare ch v).evtOvf = s.evtOvf := rfl
@[simp] theorem State.writeCompare_evtOvfClrPend : (s.writeCompare ch v).evtOvfClrPend = s.evtOvfClrPend := rfl
@[simp] theorem State.writeCompare_intenOvf : (s.writeCompare ch v).intenOvf = s.intenOvf := rfl
@[simp] theorem State.writeCompare_ovf : (s.writeCompare ch v).ovf = s.ovf := rfl
@[simp] theorem State.writeCompare_lastNow : (s.writeCompare ch v).lastNow = s.lastNow := rfl
@[simp] theorem State.writeCompare_poolInit : (s.writeCompare ch v).poolInit = s.poolInit := rfl
@[simp] theorem State.writeCompare_timers : (s.writeCompare ch v).timers = s.timers := rfl
@[simp] theorem State.writeCompare_taskInUse : (s.writeCompare ch v).taskInUse = s.taskInUse := rfl
@[simp] theorem State.writeCompare_taskExpired : (s.writeCompare ch v).taskExpired = s.taskExpired := rfl
@[simp] theorem State.writeCompare_taskId : (s.writeCompare ch v).taskId = s.taskId := rfl
@[simp] theorem State.writeCompare_wake : (s.writeCompare ch v).wake = s.wake := rfl
@[simp] theorem State.writeCompare_sane : (s.writeCompare ch v).sane = s.sane := rfl
@[simp] theorem State.writeCompare_lfclk : (s.writeCompare ch v).lfclk = s.lfclk := rfl
@[simp] theorem State.writeCompare_hfclk : (s.writeCompare ch v).hfclk = s.hfclk := rfl
@[simp] theorem State.writeCompare_evtLfStarted : (s.writeCompare ch v).evtLfStarted = s.evtLfStarted := rfl
@[simp] theorem State.writeCompare_evtHfStarted : (s.writeCompare ch v).evtHfStarted = s.evtHfStarted := rfl
@[simp] theorem State.writeCompare_intenLf : (s.writeCompare ch v).intenLf = s.intenLf := rfl
@[simp] theorem State.writeCompare_intenHf : (s.writeCompare ch v).intenHf = s.intenHf := rfl
@[simp] theorem State.writeCompare_pendTimerSw : (s.writeCompare ch v).pendTimerSw = s.pendTimerSw := rfl
@[simp] theorem State.writeCompare_pendRadio : (s.writeCompare ch v).pendRadio = s.pendRadio := rfl
@[simp] theorem State.writeCompare_pendPower : (s.writeCompare ch v).pendPower = s.pendPower := rfl
@[simp] theorem State.writeCompare_isrActive : (s.writeCompare ch v).isrActive = s.isrActive := rfl
@[simp] theorem State.writeCompare_isrFrame : (s.writeCompare ch v).isrFrame = s.isrFrame := rfl
@[simp] theorem State.writeCompare_evLatch : (s.writeCompare ch v).evLatch = s.evLatch := rfl
@[simp] theorem State.writeCompare_fault : (s.writeCompare ch v).fault = s.fault := rfl
@[simp] theorem State.writeCompare_faultCode : (s.writeCompare ch v).faultCode = s.faultCode := rfl
@[simp] theorem State.writeCompare_history : (s.writeCompare ch v).history = s.history := rfl
@[simp] theorem State.writeCompare_issued : (s.writeCompare ch v).issued = s.issued := rfl
@[simp] theorem State.writeCompare_cmdHeld : (s.writeCompare ch v).cmdHeld = s.cmdHeld := rfl
@[simp] theorem State.writeCompare_sched : (s.writeCompare ch v).sched = s.sched := rfl
@[simp] theorem State.writeCompare_draws : (s.writeCompare ch v).draws = s.draws := rfl

end

section

variable (s : State) (d : Draws)

@[simp] theorem State.tick_cfg : (s.tick d).cfg = s.cfg := rfl
@[simp] theorem State.tick_res : (s.tick d).res = s.res := rfl
@[simp] theorem State.tick_pc : (s.tick d).pc = s.pc := rfl
@[simp] theorem State.tick_fgFrame : (s.tick d).fgFrame = s.fgFrame := rfl
@[simp] theorem State.tick_fgWaiting : (s.tick d).fgWaiting = s.fgWaiting := rfl
@[simp] theorem State.tick_counterRunning : (s.tick d).counterRunning = s.counterRunning := rfl
@[simp] theorem State.tick_intenOvf : (s.tick d).intenOvf = s.intenOvf := rfl
@[simp] theorem State.tick_ovf : (s.tick d).ovf = s.ovf := rfl
@[simp] theorem State.tick_lastNow : (s.tick d).lastNow = s.lastNow := rfl
@[simp] theorem State.tick_poolInit : (s.tick d).poolInit = s.poolInit := rfl
@[simp] theorem State.tick_timers : (s.tick d).timers = s.timers := rfl
@[simp] theorem State.tick_taskInUse : (s.tick d).taskInUse = s.taskInUse := rfl
@[simp] theorem State.tick_taskExpired : (s.tick d).taskExpired = s.taskExpired := rfl
@[simp] theorem State.tick_taskId : (s.tick d).taskId = s.taskId := rfl
@[simp] theorem State.tick_wake : (s.tick d).wake = s.wake := rfl
@[simp] theorem State.tick_sane : (s.tick d).sane = s.sane := rfl
@[simp] theorem State.tick_lfclk : (s.tick d).lfclk = s.lfclk := rfl
@[simp] theorem State.tick_hfclk : (s.tick d).hfclk = s.hfclk := rfl
@[simp] theorem State.tick_evtLfStarted : (s.tick d).evtLfStarted = s.evtLfStarted := rfl
@[simp] theorem State.tick_evtHfStarted : (s.tick d).evtHfStarted = s.evtHfStarted := rfl
@[simp] theorem State.tick_intenLf : (s.tick d).intenLf = s.intenLf := rfl
@[simp] theorem State.tick_intenHf : (s.tick d).intenHf = s.intenHf := rfl
@[simp] theorem State.tick_pendTimerSw : (s.tick d).pendTimerSw = s.pendTimerSw := rfl
@[simp] theorem State.tick_pendRadio : (s.tick d).pendRadio = s.pendRadio := rfl
@[simp] theorem State.tick_pendPower : (s.tick d).pendPower = s.pendPower := rfl
@[simp] theorem State.tick_isrActive : (s.tick d).isrActive = s.isrActive := rfl
@[simp] theorem State.tick_isrFrame : (s.tick d).isrFrame = s.isrFrame := rfl
@[simp] theorem State.tick_evLatch : (s.tick d).evLatch = s.evLatch := rfl
@[simp] theorem State.tick_fault : (s.tick d).fault = s.fault := rfl
@[simp] theorem State.tick_faultCode : (s.tick d).faultCode = s.faultCode := rfl
@[simp] theorem State.tick_history : (s.tick d).history = s.history := rfl
@[simp] theorem State.tick_issued : (s.tick d).issued = s.issued := rfl
@[simp] theorem State.tick_cmdHeld : (s.tick d).cmdHeld = s.cmdHeld := rfl
@[simp] theorem State.tick_sched : (s.tick d).sched = s.sched := rfl
@[simp] theorem State.tick_draws : (s.tick d).draws = s.draws := rfl

end

section

variable (s : State)

@[simp] theorem State.initPool_cfg : (s.initPool).cfg = s.cfg := rfl
@[simp] theorem State.initPool_res : (s.initPool).res = s.res := rfl
@[simp] theorem State.initPool_pc : (s.initPool).pc = s.pc := rfl
@[simp] theorem State.initPool_fgFrame : (s.initPool).fgFrame = s.fgFrame := rfl
@[simp] theorem State.initPool_fgWaiting : (s.initPool).fgWaiting = s.fgWaiting := rfl
@[simp] theorem State.initPool_counter : (s.initPool).counter = s.counter := rfl
@[simp] theorem State.initPool_counterRunning : (s.initPool).counterRunning = s.counterRunning := rfl
@[simp] theorem State.initPool_evtOvf : (s.initPool).evtOvf = s.evtOvf := rfl
@[simp] theorem State.initPool_evtOvfClrPend : (s.initPool).evtOvfClrPend = s.evtOvfClrPend := rfl
@[simp] theorem State.initPool_intenOvf : (s.initPool).intenOvf = s.intenOvf := rfl
@[simp] theorem State.initPool_ovf : (s.initPool).ovf = s.ovf := rfl
@[simp] theorem State.initPool_lastNow : (s.initPool).lastNow = s.lastNow := rfl
@[simp] theorem State.initPool_wake : (s.initPool).wake = s.wake := rfl
@[simp] theorem State.initPool_sane : (s.initPool).sane = s.sane := rfl
@[simp] theorem State.initPool_lfclk : (s.initPool).lfclk = s.lfclk := rfl
@[simp] theorem State.initPool_hfclk : (s.initPool).hfclk = s.hfclk := rfl
@[simp] theorem State.initPool_evtLfStarted : (s.initPool).evtLfStarted = s.evtLfStarted := rfl
@[simp] theorem State.initPool_evtHfStarted : (s.initPool).evtHfStarted = s.evtHfStarted := rfl
@[simp] theorem State.initPool_intenLf : (s.initPool).intenLf = s.intenLf := rfl
@[simp] theorem State.initPool_intenHf : (s.initPool).intenHf = s.intenHf := rfl
@[simp] theorem State.initPool_pendTimerSw : (s.initPool).pendTimerSw = s.pendTimerSw := rfl
@[simp] theorem State.initPool_pendRadio : (s.initPool).pendRadio = s.pendRadio := rfl
@[simp] theorem State.initPool_pendPower : (s.initPool).pendPower = s.pendPower := rfl
@[simp] theorem State.initPool_isrActive : (s.initPool).isrActive = s.isrActive := rfl
@[simp] theorem State.initPool_isrFrame : (s.initPool).isrFrame = s.isrFrame := rfl
@[simp] theorem State.initPool_evLatch : (s.initPool).evLatch = s.evLatch := rfl
@[simp] theorem State.initPool_fault : (s.initPool).fault = s.fault := rfl
@[simp] theorem State.initPool_faultCode : (s.initPool).faultCode = s.faultCode := rfl
@[simp] theorem State.initPool_history : (s.initPool).history = s.history := rfl
@[simp] theorem State.initPool_issued : (s.initPool).issued = s.issued := rfl
@[simp] theorem State.initPool_cmdHeld : (s.initPool).cmdHeld = s.cmdHeld := rfl
@[simp] theorem State.initPool_sched : (s.initPool).sched = s.sched := rfl
@[simp] theorem State.initPool_draws : (s.initPool).draws = s.draws := rfl

end

section

variable (s : State) (code : FaultCode)

@[simp] theorem State.raiseFault_cfg : (s.raiseFault code).cfg = s.cfg := by unfold State.raiseFault; split <;> rfl
@[simp] theorem State.raiseFault_res : (s.raiseFault code).res = s.res := by unfold State.raiseFault; split <;> rfl
@[simp] theorem State.raiseFault_pc : (s.raiseFault code).pc = s.pc := by unfold State.raiseFault; split <;> rfl
@[simp] theorem State.raiseFault_fgFrame : (s.raiseFault code).fgFrame = s.fgFrame := by unfold State.raiseFault; split <;> rfl
@[simp] theorem State.raiseFault_fgWaiting : (s.raiseFault code).fgWaiting = s.fgWaiting := by unfold State.raiseFault; split <;> rfl
@[simp] theorem State.raiseFault_counter : (s.raiseFault code).counter = s.counter := by unfold State.raiseFault; split <;> rfl
@[simp] theorem State.raiseFault_counterRunning : (s.raiseFault code).counterRunning = s.counterRunning := by unfold State.raiseFault; split <;> rfl
@[simp] theorem State.raiseFault_evtOvf : (s.raiseFault code).evtOvf = s.evtOvf := by unfold State.raiseFault; split <;> rfl
@[simp] theorem State.raiseFault_evtOvfClrPend : (s.raiseFault code).evtOvfClrPend = s.evtOvfClrPend := by unfold State.raiseFault; split <;> rfl
@[simp] theorem State.raiseFault_intenOvf : (s.raiseFault code).intenOvf = s.intenOvf := by unfold State.raiseFault; split <;> rfl
@[simp] theorem State.raiseFault_chans : (s.raiseFault code).chans = s.chans := by unfold State.raiseFault; split <;> rfl
@[simp] theorem State.raiseFault_ovf : (s.raiseFault code).ovf = s.ovf := by unfold State.raiseFault; split <;> rfl
@[simp] theorem State.raiseFault_lastNow : (s.raiseFault code).lastNow = s.lastNow := by unfold State.raiseFault; split <;> rfl
@[simp] theorem State.raiseFault_poolInit : (s.raiseFault code).poolInit = s.poolInit := by unfold State.raiseFault; split <;> rfl
@[simp] theorem State.raiseFault_timers : (s.raiseFault code).timers = s.timers := by unfold State.raiseFault; split <;> rfl
@[simp] theorem State.raiseFault_taskInUse : (s.raiseFault code).taskInUse = s.taskInUse := by unfold State.raiseFault; split <;> rfl
@[simp] theorem State.raiseFault_taskExpired : (s.raiseFault code).taskExpired = s.taskExpired := by unfold State.raiseFault; split <;> rfl
@[simp] theorem State.raiseFault_taskId : (s.raiseFault code).taskId = s.taskId := by unfold State.raiseFault; split <;> rfl
@[simp] theorem State.raiseFault_wake : (s.raiseFault code).wake = s.wake := by unfold State.raiseFault; split <;> rfl
@[simp] theorem State.raiseFault_sane : (s.raiseFault code).sane = s.sane := by unfold State.raiseFault; split <;> rfl
@[simp] theorem State.raiseFault_lfclk : (s.raiseFault code).lfclk = s.lfclk := by unfold State.raiseFault; split <;> rfl
@[simp] theorem State.raiseFault_hfclk : (s.raiseFault code).hfclk = s.hfclk := by unfold State.raiseFault; split <;> rfl
@[simp] theorem State.raiseFault_evtLfStarted : (s.raiseFault code).evtLfStarted = s.evtLfStarted := by unfold State.raiseFault; split <;> rfl
@[simp] theorem State.raiseFault_evtHfStarted : (s.raiseFault code).evtHfStarted = s.evtHfStarted := by unfold State.raiseFault; split <;> rfl
@[simp] theorem State.raiseFault_intenLf : (s.raiseFault code).intenLf = s.intenLf := by unfold State.raiseFault; split <;> rfl
@[simp] theorem State.raiseFault_intenHf : (s.raiseFault code).intenHf = s.intenHf := by unfold State.raiseFault; split <;> rfl
@[simp] theorem State.raiseFault_pendTimerSw : (s.raiseFault code).pendTimerSw = s.pendTimerSw := by unfold State.raiseFault; split <;> rfl
@[simp] theorem State.raiseFault_pendRadio : (s.raiseFault code).pendRadio = s.pendRadio := by unfold State.raiseFault; split <;> rfl
@[simp] theorem State.raiseFault_pendPower : (s.raiseFault code).pendPower = s.pendPower := by unfold State.raiseFault; split <;> rfl
@[simp] theorem State.raiseFault_isrActive : (s.raiseFault code).isrActive = s.isrActive := by unfold State.raiseFault; split <;> rfl
@[simp] theorem State.raiseFault_isrFrame : (s.raiseFault code).isrFrame = s.isrFrame := by unfold State.raiseFault; split <;> rfl
@[simp] theorem State.raiseFault_evLatch : (s.raiseFault code).evLatch = s.evLatch := by unfold State.raiseFault; split <;> rfl
@[simp] theorem State.raiseFault_issued : (s.raiseFault code).issued = s.issued := by unfold State.raiseFault; split <;> rfl
@[simp] theorem State.raiseFault_cmdHeld : (s.raiseFault code).cmdHeld = s.cmdHeld := by unfold State.raiseFault; split <;> rfl
@[simp] theorem State.raiseFault_sched : (s.raiseFault code).sched = s.sched := by unfold State.raiseFault; split <;> rfl
@[simp] theorem State.raiseFault_draws : (s.raiseFault code).draws = s.draws := by unfold State.raiseFault; split <;> rfl

end

section

variable (s : State)

@[simp] theorem State.takeMove_cfg : (s.takeMove).cfg = s.cfg := by unfold State.takeMove; split <;> rfl
@[simp] theorem State.takeMove_res : (s.takeMove).res = s.res := by unfold State.takeMove; split <;> rfl
@[simp] theorem State.takeMove_pc : (s.takeMove).pc = s.pc := by unfold State.takeMove; split <;> rfl
@[simp] theorem State.takeMove_fgFrame : (s.takeMove).fgFrame = s.fgFrame := by unfold State.takeMove; split <;> rfl
@[simp] theorem State.takeMove_fgWaiting : (s.takeMove).fgWaiting = s.fgWaiting := by unfold State.takeMove; split <;> rfl
@[simp] theorem State.takeMove_counter : (s.takeMove).counter = s.counter := by unfold State.takeMove; split <;> rfl
@[simp] theorem State.takeMove_counterRunning : (s.takeMove).counterRunning = s.counterRunning := by unfold State.takeMove; split <;> rfl
@[simp] theorem State.takeMove_evtOvf : (s.takeMove).evtOvf = s.evtOvf := by unfold State.takeMove; split <;> rfl
@[simp] theorem State.takeMove_evtOvfClrPend : (s.takeMove).evtOvfClrPend = s.evtOvfClrPend := by unfold State.takeMove; split <;> rfl
@[simp] theorem State.takeMove_intenOvf : (s.takeMove).intenOvf = s.intenOvf := by unfold State.takeMove; split <;> rfl
@[simp] theorem State.takeMove_chans : (s.takeMove).chans = s.chans := by unfold State.takeMove; split <;> rfl
@[simp] theorem State.takeMove_ovf : (s.takeMove).ovf = s.ovf := by unfold State.takeMove; split <;> rfl
@[simp] theorem State.takeMove_lastNow : (s.takeMove).lastNow = s.lastNow := by unfold State.takeMove; split <;> rfl
@[simp] theorem State.takeMove_poolInit : (s.takeMove).poolInit = s.poolInit := by unfold State.takeMove; split <;> rfl
@[simp] theorem State.takeMove_timers : (s.takeMove).timers = s.timers := by unfold State.takeMove; split <;> rfl
@[simp] theorem State.takeMove_taskInUse : (s.takeMove).taskInUse = s.taskInUse := by unfold State.takeMove; split <;> rfl
@[simp] theorem State.takeMove_taskExpired : (s.takeMove).taskExpired = s.taskExpired := by unfold State.takeMove; split <;> rfl
@[simp] theorem State.takeMove_taskId : (s.takeMove).taskId = s.taskId := by unfold State.takeMove; split <;> rfl
@[simp] theorem State.takeMove_wake : (s.takeMove).wake = s.wake := by unfold State.takeMove; split <;> rfl
@[simp] theorem State.takeMove_sane : (s.takeMove).sane = s.sane := by unfold State.takeMove; split <;> rfl
@[simp] theorem State.takeMove_lfclk : (s.takeMove).lfclk = s.lfclk := by unfold State.takeMove; split <;> rfl
@[simp] theorem State.takeMove_hfclk : (s.takeMove).hfclk = s.hfclk := by unfold State.takeMove; split <;> rfl
@[simp] theorem State.takeMove_evtLfStarted : (s.takeMove).evtLfStarted = s.evtLfStarted := by unfold State.takeMove; split <;> rfl
@[simp] theorem State.takeMove_evtHfStarted : (s.takeMove).evtHfStarted = s.evtHfStarted := by unfold State.takeMove; split <;> rfl
@[simp] theorem State.takeMove_intenLf : (s.takeMove).intenLf = s.intenLf := by unfold State.takeMove; split <;> rfl
@[simp] theorem State.takeMove_intenHf : (s.takeMove).intenHf = s.intenHf := by unfold State.takeMove; split <;> rfl
@[simp] theorem State.takeMove_pendTimerSw : (s.takeMove).pendTimerSw = s.pendTimerSw := by unfold State.takeMove; split <;> rfl
@[simp] theorem State.takeMove_pendRadio : (s.takeMove).pendRadio = s.pendRadio := by unfold State.takeMove; split <;> rfl
@[simp] theorem State.takeMove_pendPower : (s.takeMove).pendPower = s.pendPower := by unfold State.takeMove; split <;> rfl
@[simp] theorem State.takeMove_isrActive : (s.takeMove).isrActive = s.isrActive := by unfold State.takeMove; split <;> rfl
@[simp] theorem State.takeMove_isrFrame : (s.takeMove).isrFrame = s.isrFrame := by unfold State.takeMove; split <;> rfl
@[simp] theorem State.takeMove_evLatch : (s.takeMove).evLatch = s.evLatch := by unfold State.takeMove; split <;> rfl
@[simp] theorem State.takeMove_fault : (s.takeMove).fault = s.fault := by unfold State.takeMove; split <;> rfl
@[simp] theorem State.takeMove_faultCode : (s.takeMove).faultCode = s.faultCode := by unfold State.takeMove; split <;> rfl
@[simp] theorem State.takeMove_history : (s.takeMove).history = s.history := by unfold State.takeMove; split <;> rfl
@[simp] theorem State.takeMove_issued : (s.takeMove).issued = s.issued := by unfold State.takeMove; split <;> rfl
@[simp] theorem State.takeMove_cmdHeld : (s.takeMove).cmdHeld = s.cmdHeld := by unfold State.takeMove; split <;> rfl

end

section

variable (s : State)

@[simp] theorem State.startClock_cfg : (s.startClock).cfg = s.cfg := by unfold State.startClock; dsimp only; split <;> rfl
@[simp] theorem State.startClock_res : (s.startClock).res = s.res := by unfold State.startClock; dsimp only; split <;> rfl
@[simp] theorem State.startClock_pc : (s.startClock).pc = s.pc := by unfold State.startClock; dsimp only; split <;> rfl
@[simp] theorem State.startClock_fgFrame : (s.startClock).fgFrame = s.fgFrame := by unfold State.startClock; dsimp only; split <;> rfl
@[simp] theorem State.startClock_fgWaiting : (s.startClock).fgWaiting = s.fgWaiting := by unfold State.startClock; dsimp only; split <;> rfl
@[simp] theorem State.startClock_wake : (s.startClock).wake = s.wake := by unfold State.startClock; dsimp only; split <;> rfl
@[simp] theorem State.startClock_sane : (s.startClock).sane = s.sane := by unfold State.startClock; dsimp only; split <;> rfl
@[simp] theorem State.startClock_lfclk : (s.startClock).lfclk = s.lfclk := by unfold State.startClock; dsimp only; split <;> rfl
@[simp] theorem State.startClock_hfclk : (s.startClock).hfclk = s.hfclk := by unfold State.startClock; dsimp only; split <;> rfl
@[simp] theorem State.startClock_evtLfStarted : (s.startClock).evtLfStarted = s.evtLfStarted := by unfold State.startClock; dsimp only; split <;> rfl
@[simp] theorem State.startClock_evtHfStarted : (s.startClock).evtHfStarted = s.evtHfStarted := by unfold State.startClock; dsimp only; split <;> rfl
@[simp] theorem State.startClock_intenLf : (s.startClock).intenLf = s.intenLf := by unfold State.startClock; dsimp only; split <;> rfl
@[simp] theorem State.startClock_intenHf : (s.startClock).intenHf = s.intenHf := by unfold State.startClock; dsimp only; split <;> rfl
@[simp] theorem State.startClock_pendTimerSw : (s.startClock).pendTimerSw = s.pendTimerSw := by unfold State.startClock; dsimp only; split <;> rfl
@[simp] theorem State.startClock_pendRadio : (s.startClock).pendRadio = s.pendRadio := by unfold State.startClock; dsimp only; split <;> rfl
@[simp] theorem State.startClock_pendPower : (s.startClock).pendPower = s.pendPower := by unfold State.startClock; dsimp only; split <;> rfl
@[simp] theorem State.startClock_isrActive : (s.startClock).isrActive = s.isrActive := by unfold State.startClock; dsimp only; split <;> rfl
@[simp] theorem State.startClock_isrFrame : (s.startClock).isrFrame = s.isrFrame := by unfold State.startClock; dsimp only; split <;> rfl
@[simp] theorem State.startClock_evLatch : (s.startClock).evLatch = s.evLatch := by unfold State.startClock; dsimp only; split <;> rfl
@[simp] theorem State.startClock_fault : (s.startClock).fault = s.fault := by unfold State.startClock; dsimp only; split <;> rfl
@[simp] theorem State.startClock_faultCode : (s.startClock).faultCode = s.faultCode := by unfold State.startClock; dsimp only; split <;> rfl
@[simp] theorem State.startClock_history : (s.startClock).history = s.history := by unfold State.startClock; dsimp only; split <;> rfl
@[simp] theorem State.startClock_issued : (s.startClock).issued = s.issued := by unfold State.startClock; dsimp only; split <;> rfl
@[simp] theorem State.startClock_cmdHeld : (s.startClock).cmdHeld = s.cmdHeld := by unfold State.startClock; dsimp only; split <;> rfl
@[simp] theorem State.startClock_sched : (s.startClock).sched = s.sched := by unfold State.startClock; dsimp only; split <;> rfl
@[simp] theorem State.startClock_draws : (s.startClock).draws = s.draws := by unfold State.startClock; dsimp only; split <;> rfl

end

section

variable (s : State) (x : Osc)

@[simp] theorem State.startReq_cfg : (s.startReq x).cfg = s.cfg := by unfold State.startReq; split <;> split <;> rfl
@[simp] theorem State.startReq_res : (s.startReq x).res = s.res := by unfold State.startReq; split <;> split <;> rfl
@[simp] theorem State.startReq_pc : (s.startReq x).pc = s.pc := by unfold State.startReq; split <;> split <;> rfl
@[simp] theorem State.startReq_fgFrame : (s.startReq x).fgFrame = s.fgFrame := by unfold State.startReq; split <;> split <;> rfl
@[simp] theorem State.startReq_fgWaiting : (s.startReq x).fgWaiting = s.fgWaiting := by unfold State.startReq; split <;> split <;> rfl
@[simp] theorem State.startReq_counter : (s.startReq x).counter = s.counter := by unfold State.startReq; split <;> split <;> rfl
@[simp] theorem State.startReq_counterRunning : (s.startReq x).counterRunning = s.counterRunning := by unfold State.startReq; split <;> split <;> rfl
@[simp] theorem State.startReq_evtOvf : (s.startReq x).evtOvf = s.evtOvf := by unfold State.startReq; split <;> split <;> rfl
@[simp] theorem State.startReq_evtOvfClrPend : (s.startReq x).evtOvfClrPend = s.evtOvfClrPend := by unfold State.startReq; split <;> split <;> rfl
@[simp] theorem State.startReq_intenOvf : (s.startReq x).intenOvf = s.intenOvf := by unfold State.startReq; split <;> split <;> rfl
@[simp] theorem State.startReq_chans : (s.startReq x).chans = s.chans := by unfold State.startReq; split <;> split <;> rfl
@[simp] theorem State.startReq_ovf : (s.startReq x).ovf = s.ovf := by unfold State.startReq; split <;> split <;> rfl
@[simp] theorem State.startReq_lastNow : (s.startReq x).lastNow = s.lastNow := by unfold State.startReq; split <;> split <;> rfl
@[simp] theorem State.startReq_poolInit : (s.startReq x).poolInit = s.poolInit := by unfold State.startReq; split <;> split <;> rfl
@[simp] theorem State.startReq_timers : (s.startReq x).timers = s.timers := by unfold State.startReq; split <;> split <;> rfl
@[simp] theorem State.startReq_taskInUse : (s.startReq x).taskInUse = s.taskInUse := by unfold State.startReq; split <;> split <;> rfl
@[simp] theorem State.startReq_taskExpired : (s.startReq x).taskExpired = s.taskExpired := by unfold State.startReq; split <;> split <;> rfl
@[simp] theorem State.startReq_taskId : (s.startReq x).taskId = s.taskId := by unfold State.startReq; split <;> split <;> rfl
@[simp] theorem State.startReq_wake : (s.startReq x).wake = s.wake := by unfold State.startReq; split <;> split <;> rfl
@[simp] theorem State.startReq_sane : (s.startReq x).sane = s.sane := by unfold State.startReq; split <;> split <;> rfl
@[simp] theorem State.startReq_evtLfStarted : (s.startReq x).evtLfStarted = s.evtLfStarted := by unfold State.startReq; split <;> split <;> rfl
@[simp] theorem State.startReq_evtHfStarted : (s.startReq x).evtHfStarted = s.evtHfStarted := by unfold State.startReq; split <;> split <;> rfl
@[simp] theorem State.startReq_intenLf : (s.startReq x).intenLf = s.intenLf := by unfold State.startReq; split <;> split <;> rfl
@[simp] theorem State.startReq_intenHf : (s.startReq x).intenHf = s.intenHf := by unfold State.startReq; split <;> split <;> rfl
@[simp] theorem State.startReq_pendTimerSw : (s.startReq x).pendTimerSw = s.pendTimerSw := by unfold State.startReq; split <;> split <;> rfl
@[simp] theorem State.startReq_pendRadio : (s.startReq x).pendRadio = s.pendRadio := by unfold State.startReq; split <;> split <;> rfl
@[simp] theorem State.startReq_pendPower : (s.startReq x).pendPower = s.pendPower := by unfold State.startReq; split <;> split <;> rfl
@[simp] theorem State.startReq_isrActive : (s.startReq x).isrActive = s.isrActive := by unfold State.startReq; split <;> split <;> rfl
@[simp] theorem State.startReq_isrFrame : (s.startReq x).isrFrame = s.isrFrame := by unfold State.startReq; split <;> split <;> rfl
@[simp] theorem State.startReq_evLatch : (s.startReq x).evLatch = s.evLatch := by unfold State.startReq; split <;> split <;> rfl
@[simp] theorem State.startReq_fault : (s.startReq x).fault = s.fault := by unfold State.startReq; split <;> split <;> rfl
@[simp] theorem State.startReq_faultCode : (s.startReq x).faultCode = s.faultCode := by unfold State.startReq; split <;> split <;> rfl
@[simp] theorem State.startReq_history : (s.startReq x).history = s.history := by unfold State.startReq; split <;> split <;> rfl
@[simp] theorem State.startReq_issued : (s.startReq x).issued = s.issued := by unfold State.startReq; split <;> split <;> rfl
@[simp] theorem State.startReq_cmdHeld : (s.startReq x).cmdHeld = s.cmdHeld := by unfold State.startReq; split <;> split <;> rfl
@[simp] theorem State.startReq_sched : (s.startReq x).sched = s.sched := by unfold State.startReq; split <;> split <;> rfl
@[simp] theorem State.startReq_draws : (s.startReq x).draws = s.draws := by unfold State.startReq; split <;> split <;> rfl

end

section

variable (s : State)

@[simp] theorem State.countOverflow_cfg : (s.countOverflow).cfg = s.cfg := by unfold State.countOverflow; split <;> rfl
@[simp] theorem State.countOverflow_res : (s.countOverflow).res = s.res := by unfold State.countOverflow; split <;> rfl
@[simp] theorem State.countOverflow_pc : (s.countOverflow).pc = s.pc := by unfold State.countOverflow; split <;> rfl
@[simp] theorem State.countOverflow_fgFrame : (s.countOverflow).fgFrame = s.fgFrame := by unfold State.countOverflow; split <;> rfl
@[simp] theorem State.countOverflow_fgWaiting : (s.countOverflow).fgWaiting = s.fgWaiting := by unfold State.countOverflow; split <;> rfl
@[simp] theorem State.countOverflow_counter : (s.countOverflow).counter = s.counter := by unfold State.countOverflow; split <;> rfl
@[simp] theorem State.countOverflow_counterRunning : (s.countOverflow).counterRunning = s.counterRunning := by unfold State.countOverflow; split <;> rfl
@[simp] theorem State.countOverflow_evtOvf : (s.countOverflow).evtOvf = s.evtOvf := by unfold State.countOverflow; split <;> rfl
@[simp] theorem State.countOverflow_intenOvf : (s.countOverflow).intenOvf = s.intenOvf := by unfold State.countOverflow; split <;> rfl
@[simp] theorem State.countOverflow_chans : (s.countOverflow).chans = s.chans := by unfold State.countOverflow; split <;> rfl
@[simp] theorem State.countOverflow_lastNow : (s.countOverflow).lastNow = s.lastNow := by unfold State.countOverflow; split <;> rfl
@[simp] theorem State.countOverflow_poolInit : (s.countOverflow).poolInit = s.poolInit := by unfold State.countOverflow; split <;> rfl
@[simp] theorem State.countOverflow_timers : (s.countOverflow).timers = s.timers := by unfold State.countOverflow; split <;> rfl
@[simp] theorem State.countOverflow_taskInUse : (s.countOverflow).taskInUse = s.taskInUse := by unfold State.countOverflow; split <;> rfl
@[simp] theorem State.countOverflow_taskExpired : (s.countOverflow).taskExpired = s.taskExpired := by unfold State.countOverflow; split <;> rfl
@[simp] theorem State.countOverflow_taskId : (s.countOverflow).taskId = s.taskId := by unfold State.countOverflow; split <;> rfl
@[simp] theorem State.countOverflow_wake : (s.countOverflow).wake = s.wake := by unfold State.countOverflow; split <;> rfl
@[simp] theorem State.countOverflow_sane : (s.countOverflow).sane = s.sane := by unfold State.countOverflow; split <;> rfl
@[simp] theorem State.countOverflow_lfclk : (s.countOverflow).lfclk = s.lfclk := by unfold State.countOverflow; split <;> rfl
@[simp] theorem State.countOverflow_hfclk : (s.countOverflow).hfclk = s.hfclk := by unfold State.countOverflow; split <;> rfl
@[simp] theorem State.countOverflow_evtLfStarted : (s.countOverflow).evtLfStarted = s.evtLfStarted := by unfold State.countOverflow; split <;> rfl
@[simp] theorem State.countOverflow_evtHfStarted : (s.countOverflow).evtHfStarted = s.evtHfStarted := by unfold State.countOverflow; split <;> rfl
@[simp] theorem State.countOverflow_intenLf : (s.countOverflow).intenLf = s.intenLf := by unfold State.countOverflow; split <;> rfl
@[simp] theorem State.countOverflow_intenHf : (s.countOverflow).intenHf = s.intenHf := by unfold State.countOverflow; split <;> rfl
@[simp] theorem State.countOverflow_pendTimerSw : (s.countOverflow).pendTimerSw = s.pendTimerSw := by unfold State.countOverflow; split <;> rfl
@[simp] theorem State.countOverflow_pendRadio : (s.countOverflow).pendRadio = s.pendRadio := by unfold State.countOverflow; split <;> rfl
@[simp] theorem State.countOverflow_pendPower : (s.countOverflow).pendPower = s.pendPower := by unfold State.countOverflow; split <;> rfl
@[simp] theorem State.countOverflow_isrActive : (s.countOverflow).isrActive = s.isrActive := by unfold State.countOverflow; split <;> rfl
@[simp] theorem State.countOverflow_isrFrame : (s.countOverflow).isrFrame = s.isrFrame := by unfold State.countOverflow; split <;> rfl
@[simp] theorem State.countOverflow_evLatch : (s.countOverflow).evLatch = s.evLatch := by unfold State.countOverflow; split <;> rfl
@[simp] theorem State.countOverflow_fault : (s.countOverflow).fault = s.fault := by unfold State.countOverflow; split <;> rfl
@[simp] theorem State.countOverflow_faultCode : (s.countOverflow).faultCode = s.faultCode := by unfold State.countOverflow; split <;> rfl
@[simp] theorem State.countOverflow_history : (s.countOverflow).history = s.history := by unfold State.countOverflow; split <;> rfl
@[simp] theorem State.countOverflow_issued : (s.countOverflow).issued = s.issued := by unfold State.countOverflow; split <;> rfl
@[simp] theorem State.countOverflow_cmdHeld : (s.countOverflow).cmdHeld = s.cmdHeld := by unfold State.countOverflow; split <;> rfl
@[simp] theorem State.countOverflow_sched : (s.countOverflow).sched = s.sched := by unfold State.countOverflow; split <;> rfl
@[simp] theorem State.countOverflow_draws : (s.countOverflow).draws = s.draws := by unfold State.countOverflow; split <;> rfl

end

section

variable (s : State) (j : PoolIx)

@[simp] theorem State.scanIndex_cfg : (s.scanIndex j).cfg = s.cfg := by unfold State.scanIndex; split <;> rfl
@[simp] theorem State.scanIndex_res : (s.scanIndex j).res = s.res := by unfold State.scanIndex; split <;> rfl
@[simp] theorem State.scanIndex_pc : (s.scanIndex j).pc = s.pc := by unfold State.scanIndex; split <;> rfl
@[simp] theorem State.scanIndex_fgFrame : (s.scanIndex j).fgFrame = s.fgFrame := by unfold State.scanIndex; split <;> rfl
@[simp] theorem State.scanIndex_fgWaiting : (s.scanIndex j).fgWaiting = s.fgWaiting := by unfold State.scanIndex; split <;> rfl
@[simp] theorem State.scanIndex_counter : (s.scanIndex j).counter = s.counter := by unfold State.scanIndex; split <;> rfl
@[simp] theorem State.scanIndex_counterRunning : (s.scanIndex j).counterRunning = s.counterRunning := by unfold State.scanIndex; split <;> rfl
@[simp] theorem State.scanIndex_evtOvf : (s.scanIndex j).evtOvf = s.evtOvf := by unfold State.scanIndex; split <;> rfl
@[simp] theorem State.scanIndex_evtOvfClrPend : (s.scanIndex j).evtOvfClrPend = s.evtOvfClrPend := by unfold State.scanIndex; split <;> rfl
@[simp] theorem State.scanIndex_intenOvf : (s.scanIndex j).intenOvf = s.intenOvf := by unfold State.scanIndex; split <;> rfl
@[simp] theorem State.scanIndex_ovf : (s.scanIndex j).ovf = s.ovf := by unfold State.scanIndex; split <;> rfl
@[simp] theorem State.scanIndex_lastNow : (s.scanIndex j).lastNow = s.lastNow := by unfold State.scanIndex; split <;> rfl
@[simp] theorem State.scanIndex_poolInit : (s.scanIndex j).poolInit = s.poolInit := by unfold State.scanIndex; split <;> rfl
@[simp] theorem State.scanIndex_taskInUse : (s.scanIndex j).taskInUse = s.taskInUse := by unfold State.scanIndex; split <;> rfl
@[simp] theorem State.scanIndex_taskExpired : (s.scanIndex j).taskExpired = s.taskExpired := by unfold State.scanIndex; split <;> rfl
@[simp] theorem State.scanIndex_taskId : (s.scanIndex j).taskId = s.taskId := by unfold State.scanIndex; split <;> rfl
@[simp] theorem State.scanIndex_wake : (s.scanIndex j).wake = s.wake := by unfold State.scanIndex; split <;> rfl
@[simp] theorem State.scanIndex_sane : (s.scanIndex j).sane = s.sane := by unfold State.scanIndex; split <;> rfl
@[simp] theorem State.scanIndex_lfclk : (s.scanIndex j).lfclk = s.lfclk := by unfold State.scanIndex; split <;> rfl
@[simp] theorem State.scanIndex_hfclk : (s.scanIndex j).hfclk = s.hfclk := by unfold State.scanIndex; split <;> rfl
@[simp] theorem State.scanIndex_evtLfStarted : (s.scanIndex j).evtLfStarted = s.evtLfStarted := by unfold State.scanIndex; split <;> rfl
@[simp] theorem State.scanIndex_evtHfStarted : (s.scanIndex j).evtHfStarted = s.evtHfStarted := by unfold State.scanIndex; split <;> rfl
@[simp] theorem State.scanIndex_intenLf : (s.scanIndex j).intenLf = s.intenLf := by unfold State.scanIndex; split <;> rfl
@[simp] theorem State.scanIndex_intenHf : (s.scanIndex j).intenHf = s.intenHf := by unfold State.scanIndex; split <;> rfl
@[simp] theorem State.scanIndex_pendTimerSw : (s.scanIndex j).pendTimerSw = s.pendTimerSw := by unfold State.scanIndex; split <;> rfl
@[simp] theorem State.scanIndex_pendRadio : (s.scanIndex j).pendRadio = s.pendRadio := by unfold State.scanIndex; split <;> rfl
@[simp] theorem State.scanIndex_pendPower : (s.scanIndex j).pendPower = s.pendPower := by unfold State.scanIndex; split <;> rfl
@[simp] theorem State.scanIndex_isrActive : (s.scanIndex j).isrActive = s.isrActive := by unfold State.scanIndex; split <;> rfl
@[simp] theorem State.scanIndex_isrFrame : (s.scanIndex j).isrFrame = s.isrFrame := by unfold State.scanIndex; split <;> rfl
@[simp] theorem State.scanIndex_evLatch : (s.scanIndex j).evLatch = s.evLatch := by unfold State.scanIndex; split <;> rfl
@[simp] theorem State.scanIndex_fault : (s.scanIndex j).fault = s.fault := by unfold State.scanIndex; split <;> rfl
@[simp] theorem State.scanIndex_faultCode : (s.scanIndex j).faultCode = s.faultCode := by unfold State.scanIndex; split <;> rfl
@[simp] theorem State.scanIndex_history : (s.scanIndex j).history = s.history := by unfold State.scanIndex; split <;> rfl
@[simp] theorem State.scanIndex_issued : (s.scanIndex j).issued = s.issued := by unfold State.scanIndex; split <;> rfl
@[simp] theorem State.scanIndex_cmdHeld : (s.scanIndex j).cmdHeld = s.cmdHeld := by unfold State.scanIndex; split <;> rfl
@[simp] theorem State.scanIndex_sched : (s.scanIndex j).sched = s.sched := by unfold State.scanIndex; split <;> rfl
@[simp] theorem State.scanIndex_draws : (s.scanIndex j).draws = s.draws := by unfold State.scanIndex; split <;> rfl

end

section

variable (s : State)

@[simp] theorem State.scanTask_cfg : (s.scanTask).cfg = s.cfg := by unfold State.scanTask; split <;> rfl
@[simp] theorem State.scanTask_res : (s.scanTask).res = s.res := by unfold State.scanTask; split <;> rfl
@[simp] theorem State.scanTask_pc : (s.scanTask).pc = s.pc := by unfold State.scanTask; split <;> rfl
@[simp] theorem State.scanTask_fgFrame : (s.scanTask).fgFrame = s.fgFrame := by unfold State.scanTask; split <;> rfl
@[simp] theorem State.scanTask_fgWaiting : (s.scanTask).fgWaiting = s.fgWaiting := by unfold State.scanTask; split <;> rfl
@[simp] theorem State.scanTask_counter : (s.scanTask).counter = s.counter := by unfold State.scanTask; split <;> rfl
@[simp] theorem State.scanTask_counterRunning : (s.scanTask).counterRunning = s.counterRunning := by unfold State.scanTask; split <;> rfl
@[simp] theorem State.scanTask_evtOvf : (s.scanTask).evtOvf = s.evtOvf := by unfold State.scanTask; split <;> rfl
@[simp] theorem State.scanTask_evtOvfClrPend : (s.scanTask).evtOvfClrPend = s.evtOvfClrPend := by unfold State.scanTask; split <;> rfl
@[simp] theorem State.scanTask_intenOvf : (s.scanTask).intenOvf = s.intenOvf := by unfold State.scanTask; split <;> rfl
@[simp] theorem State.scanTask_ovf : (s.scanTask).ovf = s.ovf := by unfold State.scanTask; split <;> rfl
@[simp] theorem State.scanTask_lastNow : (s.scanTask).lastNow = s.lastNow := by unfold State.scanTask; split <;> rfl
@[simp] theorem State.scanTask_poolInit : (s.scanTask).poolInit = s.poolInit := by unfold State.scanTask; split <;> rfl
@[simp] theorem State.scanTask_timers : (s.scanTask).timers = s.timers := by unfold State.scanTask; split <;> rfl
@[simp] theorem State.scanTask_taskInUse : (s.scanTask).taskInUse = s.taskInUse := by unfold State.scanTask; split <;> rfl
@[simp] theorem State.scanTask_taskId : (s.scanTask).taskId = s.taskId := by unfold State.scanTask; split <;> rfl
@[simp] theorem State.scanTask_wake : (s.scanTask).wake = s.wake := by unfold State.scanTask; split <;> rfl
@[simp] theorem State.scanTask_sane : (s.scanTask).sane = s.sane := by unfold State.scanTask; split <;> rfl
@[simp] theorem State.scanTask_lfclk : (s.scanTask).lfclk = s.lfclk := by unfold State.scanTask; split <;> rfl
@[simp] theorem State.scanTask_hfclk : (s.scanTask).hfclk = s.hfclk := by unfold State.scanTask; split <;> rfl
@[simp] theorem State.scanTask_evtLfStarted : (s.scanTask).evtLfStarted = s.evtLfStarted := by unfold State.scanTask; split <;> rfl
@[simp] theorem State.scanTask_evtHfStarted : (s.scanTask).evtHfStarted = s.evtHfStarted := by unfold State.scanTask; split <;> rfl
@[simp] theorem State.scanTask_intenLf : (s.scanTask).intenLf = s.intenLf := by unfold State.scanTask; split <;> rfl
@[simp] theorem State.scanTask_intenHf : (s.scanTask).intenHf = s.intenHf := by unfold State.scanTask; split <;> rfl
@[simp] theorem State.scanTask_pendTimerSw : (s.scanTask).pendTimerSw = s.pendTimerSw := by unfold State.scanTask; split <;> rfl
@[simp] theorem State.scanTask_pendRadio : (s.scanTask).pendRadio = s.pendRadio := by unfold State.scanTask; split <;> rfl
@[simp] theorem State.scanTask_pendPower : (s.scanTask).pendPower = s.pendPower := by unfold State.scanTask; split <;> rfl
@[simp] theorem State.scanTask_isrActive : (s.scanTask).isrActive = s.isrActive := by unfold State.scanTask; split <;> rfl
@[simp] theorem State.scanTask_isrFrame : (s.scanTask).isrFrame = s.isrFrame := by unfold State.scanTask; split <;> rfl
@[simp] theorem State.scanTask_evLatch : (s.scanTask).evLatch = s.evLatch := by unfold State.scanTask; split <;> rfl
@[simp] theorem State.scanTask_fault : (s.scanTask).fault = s.fault := by unfold State.scanTask; split <;> rfl
@[simp] theorem State.scanTask_faultCode : (s.scanTask).faultCode = s.faultCode := by unfold State.scanTask; split <;> rfl
@[simp] theorem State.scanTask_history : (s.scanTask).history = s.history := by unfold State.scanTask; split <;> rfl
@[simp] theorem State.scanTask_issued : (s.scanTask).issued = s.issued := by unfold State.scanTask; split <;> rfl
@[simp] theorem State.scanTask_cmdHeld : (s.scanTask).cmdHeld = s.cmdHeld := by unfold State.scanTask; split <;> rfl
@[simp] theorem State.scanTask_sched : (s.scanTask).sched = s.sched := by unfold State.scanTask; split <;> rfl
@[simp] theorem State.scanTask_draws : (s.scanTask).draws = s.draws := by unfold State.scanTask; split <;> rfl

end

section

variable (s : State) (ch : ChIx)

@[simp] theorem State.markExpired_cfg : (s.markExpired ch).cfg = s.cfg := by unfold State.markExpired; split <;> rfl
@[simp] theorem State.markExpired_res : (s.markExpired ch).res = s.res := by unfold State.markExpired; split <;> rfl
@[simp] theorem State.markExpired_pc : (s.markExpired ch).pc = s.pc := by unfold State.markExpired; split <;> rfl
@[simp] theorem State.markExpired_fgFrame : (s.markExpired ch).fgFrame = s.fgFrame := by unfold State.markExpired; split <;> rfl
@[simp] theorem State.markExpired_fgWaiting : (s.markExpired ch).fgWaiting = s.fgWaiting := by unfold State.markExpired; split <;> rfl
@[simp] theorem State.markExpired_counter : (s.markExpired ch).counter = s.counter := by unfold State.markExpired; split <;> rfl
@[simp] theorem State.markExpired_counterRunning : (s.markExpired ch).counterRunning = s.counterRunning := by unfold State.markExpired; split <;> rfl
@[simp] theorem State.markExpired_evtOvf : (s.markExpired ch).evtOvf = s.evtOvf := by unfold State.markExpired; split <;> rfl
@[simp] theorem State.markExpired_evtOvfClrPend : (s.markExpired ch).evtOvfClrPend = s.evtOvfClrPend := by unfold State.markExpired; split <;> rfl
@[simp] theorem State.markExpired_intenOvf : (s.markExpired ch).intenOvf = s.intenOvf := by unfold State.markExpired; split <;> rfl
@[simp] theorem State.markExpired_chans : (s.markExpired ch).chans = s.chans := by unfold State.markExpired; split <;> rfl
@[simp] theorem State.markExpired_ovf : (s.markExpired ch).ovf = s.ovf := by unfold State.markExpired; split <;> rfl
@[simp] theorem State.markExpired_lastNow : (s.markExpired ch).lastNow = s.lastNow := by unfold State.markExpired; split <;> rfl
@[simp] theorem State.markExpired_poolInit : (s.markExpired ch).poolInit = s.poolInit := by unfold State.markExpired; split <;> rfl
@[simp] theorem State.markExpired_taskInUse : (s.markExpired ch).taskInUse = s.taskInUse := by unfold State.markExpired; split <;> rfl
@[simp] theorem State.markExpired_taskId : (s.markExpired ch).taskId = s.taskId := by unfold State.markExpired; split <;> rfl
@[simp] theorem State.markExpired_wake : (s.markExpired ch).wake = s.wake := by unfold State.markExpired; split <;> rfl
@[simp] theorem State.markExpired_sane : (s.markExpired ch).sane = s.sane := by unfold State.markExpired; split <;> rfl
@[simp] theorem State.markExpired_lfclk : (s.markExpired ch).lfclk = s.lfclk := by unfold State.markExpired; split <;> rfl
@[simp] theorem State.markExpired_hfclk : (s.markExpired ch).hfclk = s.hfclk := by unfold State.markExpired; split <;> rfl
@[simp] theorem State.markExpired_evtLfStarted : (s.markExpired ch).evtLfStarted = s.evtLfStarted := by unfold State.markExpired; split <;> rfl
@[simp] theorem State.markExpired_evtHfStarted : (s.markExpired ch).evtHfStarted = s.evtHfStarted := by unfold State.markExpired; split <;> rfl
@[simp] theorem State.markExpired_intenLf : (s.markExpired ch).intenLf = s.intenLf := by unfold State.markExpired; split <;> rfl
@[simp] theorem State.markExpired_intenHf : (s.markExpired ch).intenHf = s.intenHf := by unfold State.markExpired; split <;> rfl
@[simp] theorem State.markExpired_pendTimerSw : (s.markExpired ch).pendTimerSw = s.pendTimerSw := by unfold State.markExpired; split <;> rfl
@[simp] theorem State.markExpired_pendRadio : (s.markExpired ch).pendRadio = s.pendRadio := by unfold State.markExpired; split <;> rfl
@[simp] theorem State.markExpired_pendPower : (s.markExpired ch).pendPower = s.pendPower := by unfold State.markExpired; split <;> rfl
@[simp] theorem State.markExpired_isrActive : (s.markExpired ch).isrActive = s.isrActive := by unfold State.markExpired; split <;> rfl
@[simp] theorem State.markExpired_isrFrame : (s.markExpired ch).isrFrame = s.isrFrame := by unfold State.markExpired; split <;> rfl
@[simp] theorem State.markExpired_evLatch : (s.markExpired ch).evLatch = s.evLatch := by unfold State.markExpired; split <;> rfl
@[simp] theorem State.markExpired_fault : (s.markExpired ch).fault = s.fault := by unfold State.markExpired; split <;> rfl
@[simp] theorem State.markExpired_faultCode : (s.markExpired ch).faultCode = s.faultCode := by unfold State.markExpired; split <;> rfl
@[simp] theorem State.markExpired_history : (s.markExpired ch).history = s.history := by unfold State.markExpired; split <;> rfl
@[simp] theorem State.markExpired_issued : (s.markExpired ch).issued = s.issued := by unfold State.markExpired; split <;> rfl
@[simp] theorem State.markExpired_cmdHeld : (s.markExpired ch).cmdHeld = s.cmdHeld := by unfold State.markExpired; split <;> rfl
@[simp] theorem State.markExpired_sched : (s.markExpired ch).sched = s.sched := by unfold State.markExpired; split <;> rfl
@[simp] theorem State.markExpired_draws : (s.markExpired ch).draws = s.draws := by unfold State.markExpired; split <;> rfl

end

section

variable (s : State) (ch : ChIx) (timeout t0 : Ticks)

@[simp] theorem State.commitArm_cfg : (s.commitArm ch timeout t0).cfg = s.cfg := by unfold State.commitArm; dsimp only; split <;> simp
@[simp] theorem State.commitArm_res : (s.commitArm ch timeout t0).res = s.res := by unfold State.commitArm; dsimp only; split <;> simp
@[simp] theorem State.commitArm_pc : (s.commitArm ch timeout t0).pc = s.pc := by unfold State.commitArm; dsimp only; split <;> simp
@[simp] theorem State.commitArm_fgFrame : (s.commitArm ch timeout t0).fgFrame = s.fgFrame := by unfold State.commitArm; dsimp only; split <;> simp
@[simp] theorem State.commitArm_fgWaiting : (s.commitArm ch timeout t0).fgWaiting = s.fgWaiting := by unfold State.commitArm; dsimp only; split <;> simp
@[simp] theorem State.commitArm_counter : (s.commitArm ch timeout t0).counter = s.counter := by unfold State.commitArm; dsimp only; split <;> simp
@[simp] theorem State.commitArm_counterRunning : (s.commitArm ch timeout t0).counterRunning = s.counterRunning := by unfold State.commitArm; dsimp only; split <;> simp
@[simp] theorem State.commitArm_evtOvf : (s.commitArm ch timeout t0).evtOvf = s.evtOvf := by unfold State.commitArm; dsimp only; split <;> simp
@[simp] theorem State.commitArm_evtOvfClrPend : (s.commitArm ch timeout t0).evtOvfClrPend = s.evtOvfClrPend := by unfold State.commitArm; dsimp only; split <;> simp
@[simp] theorem State.commitArm_intenOvf : (s.commitArm ch timeout t0).intenOvf = s.intenOvf := by unfold State.commitArm; dsimp only; split <;> simp
@[simp] theorem State.commitArm_ovf : (s.commitArm ch timeout t0).ovf = s.ovf := by unfold State.commitArm; dsimp only; split <;> simp
@[simp] theorem State.commitArm_lastNow : (s.commitArm ch timeout t0).lastNow = s.lastNow := by unfold State.commitArm; dsimp only; split <;> simp
@[simp] theorem State.commitArm_poolInit : (s.commitArm ch timeout t0).poolInit = s.poolInit := by unfold State.commitArm; dsimp only; split <;> simp
@[simp] theorem State.commitArm_taskInUse : (s.commitArm ch timeout t0).taskInUse = s.taskInUse := by unfold State.commitArm; dsimp only; split <;> simp
@[simp] theorem State.commitArm_taskId : (s.commitArm ch timeout t0).taskId = s.taskId := by unfold State.commitArm; dsimp only; split <;> simp
@[simp] theorem State.commitArm_wake : (s.commitArm ch timeout t0).wake = s.wake := by unfold State.commitArm; dsimp only; split <;> simp
@[simp] theorem State.commitArm_sane : (s.commitArm ch timeout t0).sane = s.sane := by unfold State.commitArm; dsimp only; split <;> simp
@[simp] theorem State.commitArm_lfclk : (s.commitArm ch timeout t0).lfclk = s.lfclk := by unfold State.commitArm; dsimp only; split <;> simp
@[simp] theorem State.commitArm_hfclk : (s.commitArm ch timeout t0).hfclk = s.hfclk := by unfold State.commitArm; dsimp only; split <;> simp
@[simp] theorem State.commitArm_evtLfStarted : (s.commitArm ch timeout t0).evtLfStarted = s.evtLfStarted := by unfold State.commitArm; dsimp only; split <;> simp
@[simp] theorem State.commitArm_evtHfStarted : (s.commitArm ch timeout t0).evtHfStarted = s.evtHfStarted := by unfold State.commitArm; dsimp only; split <;> simp
@[simp] theorem State.commitArm_intenLf : (s.commitArm ch timeout t0).intenLf = s.intenLf := by unfold State.commitArm; dsimp only; split <;> simp
@[simp] theorem State.commitArm_intenHf : (s.commitArm ch timeout t0).intenHf = s.intenHf := by unfold State.commitArm; dsimp only; split <;> simp
@[simp] theorem State.commitArm_pendRadio : (s.commitArm ch timeout t0).pendRadio = s.pendRadio := by unfold State.commitArm; dsimp only; split <;> simp
@[simp] theorem State.commitArm_pendPower : (s.commitArm ch timeout t0).pendPower = s.pendPower := by unfold State.commitArm; dsimp only; split <;> simp
@[simp] theorem State.commitArm_isrActive : (s.commitArm ch timeout t0).isrActive = s.isrActive := by unfold State.commitArm; dsimp only; split <;> simp
@[simp] theorem State.commitArm_isrFrame : (s.commitArm ch timeout t0).isrFrame = s.isrFrame := by unfold State.commitArm; dsimp only; split <;> simp
@[simp] theorem State.commitArm_evLatch : (s.commitArm ch timeout t0).evLatch = s.evLatch := by unfold State.commitArm; dsimp only; split <;> simp
@[simp] theorem State.commitArm_fault : (s.commitArm ch timeout t0).fault = s.fault := by unfold State.commitArm; dsimp only; split <;> simp
@[simp] theorem State.commitArm_faultCode : (s.commitArm ch timeout t0).faultCode = s.faultCode := by unfold State.commitArm; dsimp only; split <;> simp
@[simp] theorem State.commitArm_history : (s.commitArm ch timeout t0).history = s.history := by unfold State.commitArm; dsimp only; split <;> simp
@[simp] theorem State.commitArm_issued : (s.commitArm ch timeout t0).issued = s.issued := by unfold State.commitArm; dsimp only; split <;> simp
@[simp] theorem State.commitArm_cmdHeld : (s.commitArm ch timeout t0).cmdHeld = s.cmdHeld := by unfold State.commitArm; dsimp only; split <;> simp
@[simp] theorem State.commitArm_sched : (s.commitArm ch timeout t0).sched = s.sched := by unfold State.commitArm; dsimp only; split <;> simp
@[simp] theorem State.commitArm_draws : (s.commitArm ch timeout t0).draws = s.draws := by unfold State.commitArm; dsimp only; split <;> simp

end

section

variable (s : State) (w : Word)

@[simp] theorem State.issue_cfg : (s.issue w).cfg = s.cfg := by unfold State.issue; split <;> (try split) <;> rfl
@[simp] theorem State.issue_res : (s.issue w).res = s.res := by unfold State.issue; split <;> (try split) <;> rfl
@[simp] theorem State.issue_pc : (s.issue w).pc = s.pc := by unfold State.issue; split <;> (try split) <;> rfl
@[simp] theorem State.issue_fgFrame : (s.issue w).fgFrame = s.fgFrame := by unfold State.issue; split <;> (try split) <;> rfl
@[simp] theorem State.issue_fgWaiting : (s.issue w).fgWaiting = s.fgWaiting := by unfold State.issue; split <;> (try split) <;> rfl
@[simp] theorem State.issue_counter : (s.issue w).counter = s.counter := by unfold State.issue; split <;> (try split) <;> rfl
@[simp] theorem State.issue_counterRunning : (s.issue w).counterRunning = s.counterRunning := by unfold State.issue; split <;> (try split) <;> rfl
@[simp] theorem State.issue_evtOvf : (s.issue w).evtOvf = s.evtOvf := by unfold State.issue; split <;> (try split) <;> rfl
@[simp] theorem State.issue_evtOvfClrPend : (s.issue w).evtOvfClrPend = s.evtOvfClrPend := by unfold State.issue; split <;> (try split) <;> rfl
@[simp] theorem State.issue_intenOvf : (s.issue w).intenOvf = s.intenOvf := by unfold State.issue; split <;> (try split) <;> rfl
@[simp] theorem State.issue_chans : (s.issue w).chans = s.chans := by unfold State.issue; split <;> (try split) <;> rfl
@[simp] theorem State.issue_ovf : (s.issue w).ovf = s.ovf := by unfold State.issue; split <;> (try split) <;> rfl
@[simp] theorem State.issue_lastNow : (s.issue w).lastNow = s.lastNow := by unfold State.issue; split <;> (try split) <;> rfl
@[simp] theorem State.issue_poolInit : (s.issue w).poolInit = s.poolInit := by unfold State.issue; split <;> (try split) <;> rfl
@[simp] theorem State.issue_timers : (s.issue w).timers = s.timers := by unfold State.issue; split <;> (try split) <;> rfl
@[simp] theorem State.issue_taskInUse : (s.issue w).taskInUse = s.taskInUse := by unfold State.issue; split <;> (try split) <;> rfl
@[simp] theorem State.issue_taskExpired : (s.issue w).taskExpired = s.taskExpired := by unfold State.issue; split <;> (try split) <;> rfl
@[simp] theorem State.issue_taskId : (s.issue w).taskId = s.taskId := by unfold State.issue; split <;> (try split) <;> rfl
@[simp] theorem State.issue_wake : (s.issue w).wake = s.wake := by unfold State.issue; split <;> (try split) <;> rfl
@[simp] theorem State.issue_sane : (s.issue w).sane = s.sane := by unfold State.issue; split <;> (try split) <;> rfl
@[simp] theorem State.issue_lfclk : (s.issue w).lfclk = s.lfclk := by unfold State.issue; split <;> (try split) <;> rfl
@[simp] theorem State.issue_hfclk : (s.issue w).hfclk = s.hfclk := by unfold State.issue; split <;> (try split) <;> rfl
@[simp] theorem State.issue_evtLfStarted : (s.issue w).evtLfStarted = s.evtLfStarted := by unfold State.issue; split <;> (try split) <;> rfl
@[simp] theorem State.issue_evtHfStarted : (s.issue w).evtHfStarted = s.evtHfStarted := by unfold State.issue; split <;> (try split) <;> rfl
@[simp] theorem State.issue_intenLf : (s.issue w).intenLf = s.intenLf := by unfold State.issue; split <;> (try split) <;> rfl
@[simp] theorem State.issue_intenHf : (s.issue w).intenHf = s.intenHf := by unfold State.issue; split <;> (try split) <;> rfl
@[simp] theorem State.issue_pendTimerSw : (s.issue w).pendTimerSw = s.pendTimerSw := by unfold State.issue; split <;> (try split) <;> rfl
@[simp] theorem State.issue_pendRadio : (s.issue w).pendRadio = s.pendRadio := by unfold State.issue; split <;> (try split) <;> rfl
@[simp] theorem State.issue_pendPower : (s.issue w).pendPower = s.pendPower := by unfold State.issue; split <;> (try split) <;> rfl
@[simp] theorem State.issue_isrActive : (s.issue w).isrActive = s.isrActive := by unfold State.issue; split <;> (try split) <;> rfl
@[simp] theorem State.issue_isrFrame : (s.issue w).isrFrame = s.isrFrame := by unfold State.issue; split <;> (try split) <;> rfl
@[simp] theorem State.issue_evLatch : (s.issue w).evLatch = s.evLatch := by unfold State.issue; split <;> (try split) <;> rfl
@[simp] theorem State.issue_fault : (s.issue w).fault = s.fault := by unfold State.issue; split <;> (try split) <;> rfl
@[simp] theorem State.issue_faultCode : (s.issue w).faultCode = s.faultCode := by unfold State.issue; split <;> (try split) <;> rfl
@[simp] theorem State.issue_history : (s.issue w).history = s.history := by unfold State.issue; split <;> (try split) <;> rfl
@[simp] theorem State.issue_sched : (s.issue w).sched = s.sched := by unfold State.issue; split <;> (try split) <;> rfl
@[simp] theorem State.issue_draws : (s.issue w).draws = s.draws := by unfold State.issue; split <;> (try split) <;> rfl

end

section

variable (s : State) (g : ListFrame → ListFrame)

@[simp] theorem State.mapTop_cfg : (s.mapTop g).cfg = s.cfg := by unfold State.mapTop; split <;> (try split) <;> rfl
@[simp] theorem State.mapTop_res : (s.mapTop g).res = s.res := by unfold State.mapTop; split <;> (try split) <;> rfl
@[simp] theorem State.mapTop_pc : (s.mapTop g).pc = s.pc := by unfold State.mapTop; split <;> (try split) <;> rfl
@[simp] theorem State.mapTop_fgFrame : (s.mapTop g).fgFrame = s.fgFrame := by unfold State.mapTop; split <;> (try split) <;> rfl
@[simp] theorem State.mapTop_fgWaiting : (s.mapTop g).fgWaiting = s.fgWaiting := by unfold State.mapTop; split <;> (try split) <;> rfl
@[simp] theorem State.mapTop_counter : (s.mapTop g).counter = s.counter := by unfold State.mapTop; split <;> (try split) <;> rfl
@[simp] theorem State.mapTop_counterRunning : (s.mapTop g).counterRunning = s.counterRunning := by unfold State.mapTop; split <;> (try split) <;> rfl
@[simp] theorem State.mapTop_evtOvf : (s.mapTop g).evtOvf = s.evtOvf := by unfold State.mapTop; split <;> (try split) <;> rfl
@[simp] theorem State.mapTop_evtOvfClrPend : (s.mapTop g).evtOvfClrPend = s.evtOvfClrPend := by unfold State.mapTop; split <;> (try split) <;> rfl
@[simp] theorem State.mapTop_intenOvf : (s.mapTop g).intenOvf = s.intenOvf := by unfold State.mapTop; split <;> (try split) <;> rfl
@[simp] theorem State.mapTop_chans : (s.mapTop g).chans = s.chans := by unfold State.mapTop; split <;> (try split) <;> rfl
@[simp] theorem State.mapTop_ovf : (s.mapTop g).ovf = s.ovf := by unfold State.mapTop; split <;> (try split) <;> rfl
@[simp] theorem State.mapTop_lastNow : (s.mapTop g).lastNow = s.lastNow := by unfold State.mapTop; split <;> (try split) <;> rfl
@[simp] theorem State.mapTop_poolInit : (s.mapTop g).poolInit = s.poolInit := by unfold State.mapTop; split <;> (try split) <;> rfl
@[simp] theorem State.mapTop_timers : (s.mapTop g).timers = s.timers := by unfold State.mapTop; split <;> (try split) <;> rfl
@[simp] theorem State.mapTop_taskInUse : (s.mapTop g).taskInUse = s.taskInUse := by unfold State.mapTop; split <;> (try split) <;> rfl
@[simp] theorem State.mapTop_taskExpired : (s.mapTop g).taskExpired = s.taskExpired := by unfold State.mapTop; split <;> (try split) <;> rfl
@[simp] theorem State.mapTop_taskId : (s.mapTop g).taskId = s.taskId := by unfold State.mapTop; split <;> (try split) <;> rfl
@[simp] theorem State.mapTop_wake : (s.mapTop g).wake = s.wake := by unfold State.mapTop; split <;> (try split) <;> rfl
@[simp] theorem State.mapTop_sane : (s.mapTop g).sane = s.sane := by unfold State.mapTop; split <;> (try split) <;> rfl
@[simp] theorem State.mapTop_lfclk : (s.mapTop g).lfclk = s.lfclk := by unfold State.mapTop; split <;> (try split) <;> rfl
@[simp] theorem State.mapTop_hfclk : (s.mapTop g).hfclk = s.hfclk := by unfold State.mapTop; split <;> (try split) <;> rfl
@[simp] theorem State.mapTop_evtLfStarted : (s.mapTop g).evtLfStarted = s.evtLfStarted := by unfold State.mapTop; split <;> (try split) <;> rfl
@[simp] theorem State.mapTop_evtHfStarted : (s.mapTop g).evtHfStarted = s.evtHfStarted := by unfold State.mapTop; split <;> (try split) <;> rfl
@[simp] theorem State.mapTop_intenLf : (s.mapTop g).intenLf = s.intenLf := by unfold State.mapTop; split <;> (try split) <;> rfl
@[simp] theorem State.mapTop_intenHf : (s.mapTop g).intenHf = s.intenHf := by unfold State.mapTop; split <;> (try split) <;> rfl
@[simp] theorem State.mapTop_pendTimerSw : (s.mapTop g).pendTimerSw = s.pendTimerSw := by unfold State.mapTop; split <;> (try split) <;> rfl
@[simp] theorem State.mapTop_pendRadio : (s.mapTop g).pendRadio = s.pendRadio := by unfold State.mapTop; split <;> (try split) <;> rfl
@[simp] theorem State.mapTop_pendPower : (s.mapTop g).pendPower = s.pendPower := by unfold State.mapTop; split <;> (try split) <;> rfl
@[simp] theorem State.mapTop_isrActive : (s.mapTop g).isrActive = s.isrActive := by unfold State.mapTop; split <;> (try split) <;> rfl
@[simp] theorem State.mapTop_evLatch : (s.mapTop g).evLatch = s.evLatch := by unfold State.mapTop; split <;> (try split) <;> rfl
@[simp] theorem State.mapTop_fault : (s.mapTop g).fault = s.fault := by unfold State.mapTop; split <;> (try split) <;> rfl
@[simp] theorem State.mapTop_faultCode : (s.mapTop g).faultCode = s.faultCode := by unfold State.mapTop; split <;> (try split) <;> rfl
@[simp] theorem State.mapTop_history : (s.mapTop g).history = s.history := by unfold State.mapTop; split <;> (try split) <;> rfl
@[simp] theorem State.mapTop_issued : (s.mapTop g).issued = s.issued := by unfold State.mapTop; split <;> (try split) <;> rfl
@[simp] theorem State.mapTop_cmdHeld : (s.mapTop g).cmdHeld = s.cmdHeld := by unfold State.mapTop; split <;> (try split) <;> rfl
@[simp] theorem State.mapTop_sched : (s.mapTop g).sched = s.sched := by unfold State.mapTop; split <;> (try split) <;> rfl
@[simp] theorem State.mapTop_draws : (s.mapTop g).draws = s.draws := by unfold State.mapTop; split <;> (try split) <;> rfl

end

section

variable (s : State) (f : CmdFrame)

@[simp] theorem State.hold_cfg : (s.hold f).cfg = s.cfg := by unfold State.hold; split <;> simp
@[simp] theorem State.hold_res : (s.hold f).res = s.res := by unfold State.hold; split <;> simp
@[simp] theorem State.hold_pc : (s.hold f).pc = s.pc := by unfold State.hold; split <;> simp
@[simp] theorem State.hold_fgWaiting : (s.hold f).fgWaiting = s.fgWaiting := by unfold State.hold; split <;> simp
@[simp] theorem State.hold_counter : (s.hold f).counter = s.counter := by unfold State.hold; split <;> simp
@[simp] theorem State.hold_counterRunning : (s.hold f).counterRunning = s.counterRunning := by unfold State.hold; split <;> simp
@[simp] theorem State.hold_evtOvf : (s.hold f).evtOvf = s.evtOvf := by unfold State.hold; split <;> simp
@[simp] theorem State.hold_evtOvfClrPend : (s.hold f).evtOvfClrPend = s.evtOvfClrPend := by unfold State.hold; split <;> simp
@[simp] theorem State.hold_intenOvf : (s.hold f).intenOvf = s.intenOvf := by unfold State.hold; split <;> simp
@[simp] theorem State.hold_chans : (s.hold f).chans = s.chans := by unfold State.hold; split <;> simp
@[simp] theorem State.hold_ovf : (s.hold f).ovf = s.ovf := by unfold State.hold; split <;> simp
@[simp] theorem State.hold_lastNow : (s.hold f).lastNow = s.lastNow := by unfold State.hold; split <;> simp
@[simp] theorem State.hold_poolInit : (s.hold f).poolInit = s.poolInit := by unfold State.hold; split <;> simp
@[simp] theorem State.hold_timers : (s.hold f).timers = s.timers := by unfold State.hold; split <;> simp
@[simp] theorem State.hold_taskInUse : (s.hold f).taskInUse = s.taskInUse := by unfold State.hold; split <;> simp
@[simp] theorem State.hold_taskExpired : (s.hold f).taskExpired = s.taskExpired := by unfold State.hold; split <;> simp
@[simp] theorem State.hold_taskId : (s.hold f).taskId = s.taskId := by unfold State.hold; split <;> simp
@[simp] theorem State.hold_wake : (s.hold f).wake = s.wake := by unfold State.hold; split <;> simp
@[simp] theorem State.hold_sane : (s.hold f).sane = s.sane := by unfold State.hold; split <;> simp
@[simp] theorem State.hold_lfclk : (s.hold f).lfclk = s.lfclk := by unfold State.hold; split <;> simp
@[simp] theorem State.hold_hfclk : (s.hold f).hfclk = s.hfclk := by unfold State.hold; split <;> simp
@[simp] theorem State.hold_evtLfStarted : (s.hold f).evtLfStarted = s.evtLfStarted := by unfold State.hold; split <;> simp
@[simp] theorem State.hold_evtHfStarted : (s.hold f).evtHfStarted = s.evtHfStarted := by unfold State.hold; split <;> simp
@[simp] theorem State.hold_intenLf : (s.hold f).intenLf = s.intenLf := by unfold State.hold; split <;> simp
@[simp] theorem State.hold_intenHf : (s.hold f).intenHf = s.intenHf := by unfold State.hold; split <;> simp
@[simp] theorem State.hold_pendTimerSw : (s.hold f).pendTimerSw = s.pendTimerSw := by unfold State.hold; split <;> simp
@[simp] theorem State.hold_pendRadio : (s.hold f).pendRadio = s.pendRadio := by unfold State.hold; split <;> simp
@[simp] theorem State.hold_pendPower : (s.hold f).pendPower = s.pendPower := by unfold State.hold; split <;> simp
@[simp] theorem State.hold_isrActive : (s.hold f).isrActive = s.isrActive := by unfold State.hold; split <;> simp
@[simp] theorem State.hold_evLatch : (s.hold f).evLatch = s.evLatch := by unfold State.hold; split <;> simp
@[simp] theorem State.hold_fault : (s.hold f).fault = s.fault := by unfold State.hold; split <;> simp
@[simp] theorem State.hold_faultCode : (s.hold f).faultCode = s.faultCode := by unfold State.hold; split <;> simp
@[simp] theorem State.hold_history : (s.hold f).history = s.history := by unfold State.hold; split <;> simp
@[simp] theorem State.hold_issued : (s.hold f).issued = s.issued := by unfold State.hold; split <;> simp
@[simp] theorem State.hold_cmdHeld : (s.hold f).cmdHeld = s.cmdHeld := by unfold State.hold; split <;> simp
@[simp] theorem State.hold_sched : (s.hold f).sched = s.sched := by unfold State.hold; split <;> simp
@[simp] theorem State.hold_draws : (s.hold f).draws = s.draws := by unfold State.hold; split <;> simp

end

section

variable (s : State)

@[simp] theorem State.complete_cfg : (s.complete).cfg = s.cfg := by unfold State.complete; split <;> simp
@[simp] theorem State.complete_res : (s.complete).res = s.res := by unfold State.complete; split <;> simp
@[simp] theorem State.complete_fgWaiting : (s.complete).fgWaiting = s.fgWaiting := by unfold State.complete; split <;> simp
@[simp] theorem State.complete_counter : (s.complete).counter = s.counter := by unfold State.complete; split <;> simp
@[simp] theorem State.complete_counterRunning : (s.complete).counterRunning = s.counterRunning := by unfold State.complete; split <;> simp
@[simp] theorem State.complete_evtOvf : (s.complete).evtOvf = s.evtOvf := by unfold State.complete; split <;> simp
@[simp] theorem State.complete_evtOvfClrPend : (s.complete).evtOvfClrPend = s.evtOvfClrPend := by unfold State.complete; split <;> simp
@[simp] theorem State.complete_intenOvf : (s.complete).intenOvf = s.intenOvf := by unfold State.complete; split <;> simp
@[simp] theorem State.complete_chans : (s.complete).chans = s.chans := by unfold State.complete; split <;> simp
@[simp] theorem State.complete_ovf : (s.complete).ovf = s.ovf := by unfold State.complete; split <;> simp
@[simp] theorem State.complete_lastNow : (s.complete).lastNow = s.lastNow := by unfold State.complete; split <;> simp
@[simp] theorem State.complete_poolInit : (s.complete).poolInit = s.poolInit := by unfold State.complete; split <;> simp
@[simp] theorem State.complete_timers : (s.complete).timers = s.timers := by unfold State.complete; split <;> simp
@[simp] theorem State.complete_taskInUse : (s.complete).taskInUse = s.taskInUse := by unfold State.complete; split <;> simp
@[simp] theorem State.complete_taskExpired : (s.complete).taskExpired = s.taskExpired := by unfold State.complete; split <;> simp
@[simp] theorem State.complete_taskId : (s.complete).taskId = s.taskId := by unfold State.complete; split <;> simp
@[simp] theorem State.complete_wake : (s.complete).wake = s.wake := by unfold State.complete; split <;> simp
@[simp] theorem State.complete_sane : (s.complete).sane = s.sane := by unfold State.complete; split <;> simp
@[simp] theorem State.complete_lfclk : (s.complete).lfclk = s.lfclk := by unfold State.complete; split <;> simp
@[simp] theorem State.complete_hfclk : (s.complete).hfclk = s.hfclk := by unfold State.complete; split <;> simp
@[simp] theorem State.complete_evtLfStarted : (s.complete).evtLfStarted = s.evtLfStarted := by unfold State.complete; split <;> simp
@[simp] theorem State.complete_evtHfStarted : (s.complete).evtHfStarted = s.evtHfStarted := by unfold State.complete; split <;> simp
@[simp] theorem State.complete_intenLf : (s.complete).intenLf = s.intenLf := by unfold State.complete; split <;> simp
@[simp] theorem State.complete_intenHf : (s.complete).intenHf = s.intenHf := by unfold State.complete; split <;> simp
@[simp] theorem State.complete_pendTimerSw : (s.complete).pendTimerSw = s.pendTimerSw := by unfold State.complete; split <;> simp
@[simp] theorem State.complete_pendRadio : (s.complete).pendRadio = s.pendRadio := by unfold State.complete; split <;> simp
@[simp] theorem State.complete_pendPower : (s.complete).pendPower = s.pendPower := by unfold State.complete; split <;> simp
@[simp] theorem State.complete_isrActive : (s.complete).isrActive = s.isrActive := by unfold State.complete; split <;> simp
@[simp] theorem State.complete_evLatch : (s.complete).evLatch = s.evLatch := by unfold State.complete; split <;> simp
@[simp] theorem State.complete_fault : (s.complete).fault = s.fault := by unfold State.complete; split <;> simp
@[simp] theorem State.complete_faultCode : (s.complete).faultCode = s.faultCode := by unfold State.complete; split <;> simp
@[simp] theorem State.complete_history : (s.complete).history = s.history := by unfold State.complete; split <;> simp
@[simp] theorem State.complete_sched : (s.complete).sched = s.sched := by unfold State.complete; split <;> simp
@[simp] theorem State.complete_draws : (s.complete).draws = s.draws := by unfold State.complete; split <;> simp

end

section

variable (s : State) (v : BitVec 64)

@[simp] theorem State.answer_cfg : (s.answer v).cfg = s.cfg := by simp [State.answer]
@[simp] theorem State.answer_fgWaiting : (s.answer v).fgWaiting = s.fgWaiting := by simp [State.answer]
@[simp] theorem State.answer_counter : (s.answer v).counter = s.counter := by simp [State.answer]
@[simp] theorem State.answer_counterRunning : (s.answer v).counterRunning = s.counterRunning := by simp [State.answer]
@[simp] theorem State.answer_evtOvf : (s.answer v).evtOvf = s.evtOvf := by simp [State.answer]
@[simp] theorem State.answer_evtOvfClrPend : (s.answer v).evtOvfClrPend = s.evtOvfClrPend := by simp [State.answer]
@[simp] theorem State.answer_intenOvf : (s.answer v).intenOvf = s.intenOvf := by simp [State.answer]
@[simp] theorem State.answer_chans : (s.answer v).chans = s.chans := by simp [State.answer]
@[simp] theorem State.answer_ovf : (s.answer v).ovf = s.ovf := by simp [State.answer]
@[simp] theorem State.answer_lastNow : (s.answer v).lastNow = s.lastNow := by simp [State.answer]
@[simp] theorem State.answer_poolInit : (s.answer v).poolInit = s.poolInit := by simp [State.answer]
@[simp] theorem State.answer_timers : (s.answer v).timers = s.timers := by simp [State.answer]
@[simp] theorem State.answer_taskInUse : (s.answer v).taskInUse = s.taskInUse := by simp [State.answer]
@[simp] theorem State.answer_taskExpired : (s.answer v).taskExpired = s.taskExpired := by simp [State.answer]
@[simp] theorem State.answer_taskId : (s.answer v).taskId = s.taskId := by simp [State.answer]
@[simp] theorem State.answer_wake : (s.answer v).wake = s.wake := by simp [State.answer]
@[simp] theorem State.answer_sane : (s.answer v).sane = s.sane := by simp [State.answer]
@[simp] theorem State.answer_lfclk : (s.answer v).lfclk = s.lfclk := by simp [State.answer]
@[simp] theorem State.answer_hfclk : (s.answer v).hfclk = s.hfclk := by simp [State.answer]
@[simp] theorem State.answer_evtLfStarted : (s.answer v).evtLfStarted = s.evtLfStarted := by simp [State.answer]
@[simp] theorem State.answer_evtHfStarted : (s.answer v).evtHfStarted = s.evtHfStarted := by simp [State.answer]
@[simp] theorem State.answer_intenLf : (s.answer v).intenLf = s.intenLf := by simp [State.answer]
@[simp] theorem State.answer_intenHf : (s.answer v).intenHf = s.intenHf := by simp [State.answer]
@[simp] theorem State.answer_pendTimerSw : (s.answer v).pendTimerSw = s.pendTimerSw := by simp [State.answer]
@[simp] theorem State.answer_pendRadio : (s.answer v).pendRadio = s.pendRadio := by simp [State.answer]
@[simp] theorem State.answer_pendPower : (s.answer v).pendPower = s.pendPower := by simp [State.answer]
@[simp] theorem State.answer_isrActive : (s.answer v).isrActive = s.isrActive := by simp [State.answer]
@[simp] theorem State.answer_evLatch : (s.answer v).evLatch = s.evLatch := by simp [State.answer]
@[simp] theorem State.answer_fault : (s.answer v).fault = s.fault := by simp [State.answer]
@[simp] theorem State.answer_faultCode : (s.answer v).faultCode = s.faultCode := by simp [State.answer]
@[simp] theorem State.answer_history : (s.answer v).history = s.history := by simp [State.answer]
@[simp] theorem State.answer_sched : (s.answer v).sched = s.sched := by simp [State.answer]
@[simp] theorem State.answer_draws : (s.answer v).draws = s.draws := by simp [State.answer]

end

end Sys2Proof.Machine
end

