-- ==== Sys2Proof/Laws/Bank.lean ====
section
/-! SUPPORT. The banks of channels and timers: a read after a write gives the value written, and a write leaves every other
place alone. -/

namespace Sys2Proof.Machine

@[simp] theorem Channels.get_set_self (c : Channels) (v : Channel) (i : ChIx) : (c.set v i).get i = v := by
  cases i <;> rfl

theorem Channels.get_set_ne (c : Channels) (v : Channel) {i j : ChIx} (h : j ≠ i) : (c.set v i).get j = c.get j := by
  cases i <;> cases j <;> first | rfl | exact absurd rfl h

@[simp] theorem Timers.get_set_self (t : Timers) (v : Timer) (i : PoolIx) : (t.set v i).get i = v := by
  cases i <;> rfl

theorem Timers.get_set_ne (t : Timers) (v : Timer) {i j : PoolIx} (h : j ≠ i) : (t.set v i).get j = t.get j := by
  cases i <;> cases j <;> first | rfl | exact absurd rfl h

theorem PoolIx.chan_injective {i j : PoolIx} (h : i.chan = j.chan) : i = j := by
  cases i <;> cases j <;> first | rfl | cases h

section

variable (s : State) (ch : ChIx) (i : PoolIx)

@[simp] theorem State.chan_setChan_self (v : Channel) : (s.setChan ch v).chan ch = v := by
  simp [State.chan, State.setChan]

theorem State.chan_setChan_ne (v : Channel) {j : ChIx} (h : j ≠ ch) : (s.setChan ch v).chan j = s.chan j := by
  simp [State.chan, State.setChan, Channels.get_set_ne _ _ h]

@[simp] theorem State.timer_setTimer_self (v : Timer) : (s.setTimer i v).timer i = v := by
  simp [State.timer, State.setTimer]

theorem State.timer_setTimer_ne (v : Timer) {j : PoolIx} (h : j ≠ i) : (s.setTimer i v).timer j = s.timer j := by
  simp [State.timer, State.setTimer, Timers.get_set_ne _ _ h]

@[simp] theorem State.chan_setTimer (v : Timer) : (s.setTimer i v).chan ch = s.chan ch := rfl
@[simp] theorem State.timer_setChan (v : Channel) : (s.setChan ch v).timer i = s.timer i := rfl
@[simp] theorem State.chan_hold (f : CmdFrame) : (s.hold f).chan ch = s.chan ch := by simp [State.chan]
@[simp] theorem State.timer_hold (f : CmdFrame) : (s.hold f).timer i = s.timer i := by simp [State.timer]
@[simp] theorem State.chan_complete : s.complete.chan ch = s.chan ch := by simp [State.chan]
@[simp] theorem State.timer_complete : s.complete.timer i = s.timer i := by simp [State.timer]
@[simp] theorem State.chan_raiseFault (c : FaultCode) : (s.raiseFault c).chan ch = s.chan ch := by simp [State.chan]
@[simp] theorem State.timer_raiseFault (c : FaultCode) : (s.raiseFault c).timer i = s.timer i := by simp [State.timer]

end

/-- A legal pool index names a timer below `P_N_TIMERS` (30_encoding.md R87). -/
theorem poolIx?_isSome (n : PoolSize) (idx : BitVec 2) : (poolIx? n idx).isSome = legalIdx n idx := by
  revert idx; cases n <;> decide

theorem mem_poolIndices {n : PoolSize} {idx : BitVec 2} {i : PoolIx} (h : poolIx? n idx = some i) :
    i ∈ poolIndices n := by
  revert h; revert idx; cases n <;> cases i <;> decide

end Sys2Proof.Machine
end

