-- ==== Sys2Proof/Laws/Decode.lean ====
section
/-! SUPPORT. The fields of a packed command word, and a word from its fields: a pack and the fields are inverse to one another
(30_encoding.md R80, R83). -/

namespace Sys2Proof

section

variable (o : BitVec 4) (i c : BitVec 2) (m : Ticks) (w : Word)

/-- The value of a packed word: the fields do not overlap. -/
theorem packT_toNat : (packT o i c m).toNat = o.toNat * 2 ^ 28 + i.toNat * 2 ^ 26 + c.toNat * 2 ^ 24 + m.toNat := by
  have h : packT o i c m = ((o ++ i ++ c ++ m : BitVec (4 + 2 + 2 + 24))) := rfl
  have := o.isLt; have := i.isLt; have := c.isLt; have := m.isLt
  rw [h, BitVec.toNat_append, BitVec.toNat_append, BitVec.toNat_append,
    ← Nat.shiftLeft_add_eq_or_of_lt i.isLt, ← Nat.shiftLeft_add_eq_or_of_lt c.isLt,
    ← Nat.shiftLeft_add_eq_or_of_lt m.isLt]
  simp only [Nat.shiftLeft_eq]
  omega

theorem extractLsb'_val {n : Nat} (x : BitVec n) (a k : Nat) :
    (x.extractLsb' a k).toNat = x.toNat / 2 ^ a % 2 ^ k := by
  simp [BitVec.extractLsb'_toNat, Nat.shiftRight_eq_div_pow]

@[simp] theorem fieldOp_packT : fieldOp (packT o i c m) = o := by
  apply BitVec.eq_of_toNat_eq
  have := o.isLt; have := i.isLt; have := c.isLt; have := m.isLt
  rw [fieldOp, extractLsb'_val, packT_toNat]; omega

@[simp] theorem fieldIdx_packT : fieldIdx (packT o i c m) = i := by
  apply BitVec.eq_of_toNat_eq
  have := o.isLt; have := i.isLt; have := c.isLt; have := m.isLt
  rw [fieldIdx, extractLsb'_val, packT_toNat]; omega

@[simp] theorem fieldCb_packT : fieldCb (packT o i c m) = c := by
  apply BitVec.eq_of_toNat_eq
  have := o.isLt; have := i.isLt; have := c.isLt; have := m.isLt
  rw [fieldCb, extractLsb'_val, packT_toNat]; omega

@[simp] theorem fieldImm_packT : fieldImm (packT o i c m) = m := by
  apply BitVec.eq_of_toNat_eq
  have := o.isLt; have := i.isLt; have := c.isLt; have := m.isLt
  rw [fieldImm, extractLsb'_val, packT_toNat]; omega

/-- A word is what its four fields pack to. -/
theorem packT_fields : packT (fieldOp w) (fieldIdx w) (fieldCb w) (fieldImm w) = w := by
  apply BitVec.eq_of_toNat_eq
  have := w.isLt
  rw [packT_toNat, fieldOp, fieldIdx, fieldCb, fieldImm]
  simp only [extractLsb'_val]
  omega

/-- The function of a system word is its `IDX` and `CB` bits together (R80, R83). -/
theorem fieldSub_toNat : (fieldSub w).toNat = (fieldIdx w).toNat * 4 + (fieldCb w).toNat := by
  have := w.isLt
  rw [fieldSub, fieldIdx, fieldCb]
  simp only [extractLsb'_val]
  omega

/-- The reason operand is the low part of `IMM` (R83). -/
theorem fieldReason_toNat : (fieldReason w).toNat = (fieldImm w).toNat % 8 := by
  rw [fieldReason, fieldImm]
  simp only [extractLsb'_val]
  omega

end

/-- The code of a wake reason names it (10_state.md R37). -/
@[simp] theorem WakeReason.ofCode_code (r : WakeReason) : WakeReason.ofCode r.code = r := by cases r <;> rfl

@[simp] theorem WakeReason.code_ofCode (c : BitVec 3) : (WakeReason.ofCode c).code = c := by revert c; decide

/-- A row with must-be-zero bits gives its command only where they are all 0 (R85). -/
theorem ifZero_eq_ok {n : Nat} {r : BitVec n} {i j : Instr} : ifZero r i = .ok j ↔ r = 0 ∧ i = j := by
  unfold ifZero; split <;> simp_all

end Sys2Proof
end

