-- ==== Sys2Proof/Laws/Ops.lean ====
section
/-! SUPPORT. What each shared operation can do, said once: raising a fault, the frame of the executing list, and the three
outcomes of a micro-step. -/

namespace Sys2Proof.Machine

section

variable (s : State)

/-- The first fault is recorded, a later one changes nothing (60_exceptions.md R243). -/
theorem State.raiseFault_of_faulted {code : FaultCode} (h : s.fault = true) : s.raiseFault code = s := by
  simp [State.raiseFault, h]

theorem State.raiseFault_of_ok {code : FaultCode} (h : s.fault = false) :
    s.raiseFault code = { s with fault := true, faultCode := code, history := s.history ++ [.fault code] } := by
  simp [State.raiseFault, h]

@[simp] theorem State.raiseFault_fault (code : FaultCode) : (s.raiseFault code).fault = true := by
  unfold State.raiseFault; split <;> simp_all

@[simp] theorem State.ctx_hold (f : CmdFrame) : (s.hold f).ctx = s.ctx := by simp [State.ctx]
@[simp] theorem State.ctx_complete : s.complete.ctx = s.ctx := by simp [State.ctx]
@[simp] theorem State.ctx_raiseFault (c : FaultCode) : (s.raiseFault c).ctx = s.ctx := by simp [State.ctx]

theorem State.ctx_fg (h : s.isrActive = false) : s.ctx = .fg := by simp [State.ctx, h]
theorem State.ctx_isr (h : s.isrActive = true) : s.ctx = .isr := by simp [State.ctx, h]

/-- In the foreground a command kept under execution is `FG_FRAME` (10_state.md R23). -/
theorem State.hold_fg (h : s.isrActive = false) (f : CmdFrame) : s.hold f = { s with fgFrame := some f } := by
  simp [State.hold, State.ctx, h]

/-- In the foreground a completed command advances `PC` and discards `FG_FRAME` (30_encoding.md R82). -/
theorem State.complete_fg (h : s.isrActive = false) :
    s.complete =
      { s with pc := s.pc + 4, fgFrame := none, issued := s.issued ++ s.cmdHeld.toList, cmdHeld := none } := by
  simp [State.complete, State.ctx, h, State.acceptHeld]

/-- In interrupt context a command kept under execution stands in the top of the list stack (60_exceptions.md R261). -/
theorem State.hold_isr (h : s.isrActive = true) {g : IsrFrame} {l : ListFrame} {rest : List ListFrame}
    (hg : s.isrFrame = some g) (hl : g.stack = l :: rest) (f : CmdFrame) :
    s.hold f = { s with isrFrame := some { g with stack := { l with frame := some f } :: rest } } := by
  simp [State.hold, State.ctx, h, State.mapTop, hg, hl]

/-- In interrupt context a completed command advances the `PC` of its list (30_encoding.md R82, 60_exceptions.md R261). -/
theorem State.complete_isr (h : s.isrActive = true) {g : IsrFrame} {l : ListFrame} {rest : List ListFrame}
    (hg : s.isrFrame = some g) (hl : g.stack = l :: rest) :
    s.complete =
      { s with isrFrame := some { g with stack := { l with pc := l.pc + 4, frame := none } :: rest } } := by
  simp [State.complete, State.ctx, h, State.mapTop, hg, hl]

/-- A command that its list has under execution goes on at its label. -/
theorem State.labelOf_of_at {i : Instr} {l : Label} (h : s.frame = some { cmd := i, label := l }) :
    s.labelOf i = some l := by
  simp [State.labelOf, h]

/-- A list between two commands begins a command at its first micro-step. -/
theorem State.labelOf_of_idle {i : Instr} (h : s.frame = none) : s.labelOf i = none := by
  simp [State.labelOf, h]

end

/-- A micro-step meets a condition on each of its three outcomes. -/
def Micro.Sat {ℓ α : Type} (g : ℓ → State → Prop) (r : α → State → Prop) (f : FaultCode → State → Prop) :
    Micro ℓ α → Prop
  | .goto l s => g l s
  | .ret v s => r v s
  | .fault c s => f c s

/-- A micro-step leaves a state with `P`, whatever its outcome. -/
def Micro.All {ℓ α : Type} (P : State → Prop) (m : Micro ℓ α) : Prop := m.Sat (fun _ => P) (fun _ => P) (fun _ => P)

theorem Micro.Sat.call {ℓ μ α β : Type} {m : Micro ℓ α} {into : ℓ → μ} {k : α → State → Micro μ β}
    {g : ℓ → State → Prop} {r : α → State → Prop} {f : FaultCode → State → Prop} {g' : μ → State → Prop}
    {r' : β → State → Prop} {f' : FaultCode → State → Prop} (h : m.Sat g r f) (hg : ∀ l s, g l s → g' (into l) s)
    (hr : ∀ v s, r v s → (k v s).Sat g' r' f') (hf : ∀ c s, f c s → f' c s) : (m.call into k).Sat g' r' f' := by
  cases m with
  | goto l s => exact hg l s h
  | ret v s => exact hr v s h
  | fault c s => exact hf c s h

theorem Micro.All.call {ℓ μ α β : Type} {m : Micro ℓ α} {into : ℓ → μ} {k : α → State → Micro μ β} {P : State → Prop}
    (h : m.All P) (hr : ∀ v s, P s → (k v s).All P) : (m.call into k).All P :=
  Micro.Sat.call h (fun _ _ h => h) hr (fun _ _ h => h)

/-- What a command's micro-step makes of the state: it holds a frame of its own, or it is done, or its fault is raised. -/
theorem Micro.Sat.settle {ℓ α : Type} {m : Micro ℓ α} {i : Instr} {into : ℓ → Label} {result : α → State → State}
    {g : ℓ → State → Prop} {r : α → State → Prop} {f : FaultCode → State → Prop} {Q : State → Prop} (h : m.Sat g r f)
    (hg : ∀ l s, g l s → Q (s.hold { cmd := i, label := into l })) (hr : ∀ v s, r v s → Q (result v s).complete)
    (hf : ∀ c s, f c s → Q (s.raiseFault c)) : Q (m.settle i into result) := by
  cases m with
  | goto l s => exact hg l s h
  | ret v s => exact hr v s h
  | fault c s => exact hf c s h

/-- The time query writes nothing but `LAST_NOW`, and that only where it returns (40_clock.md R106, R108). -/
theorem nowStep_sat (l : NowLabel) (s : State) :
    (nowStep l s).Sat (fun _ t => t = s) (fun v t => t = { s with lastNow := v })
      (fun c t => c = .monotonicity ∧ t = s) := by
  cases l with
  | s1 => rfl
  | s2 a => rfl
  | s3 a low =>
    simp only [nowStep, recordNow]
    split
    · split
      · exact ⟨rfl, rfl⟩
      · rfl
    · rfl

/-- An arm writes its channel, and at its commit the expired flag and the forced pend (41_timer.md R143). -/
theorem armStep_sat (ch : ChIx) (timeout : Ticks) (l : ArmLabel) (s : State) :
    (armStep ch timeout l s).Sat
      (fun _ t => t = s ∨ (∃ v, t = { s with lastNow := v }) ∨ (∃ t0, t = s.writeCompare ch (t0 + timeout)))
      (fun _ t => ∃ t0, t = s.commitArm ch timeout t0) (fun c t => c = .monotonicity ∧ t = s) := by
  cases l with
  | now l =>
    exact (nowStep_sat l s).call (fun _ _ h => .inl h) (fun v _ h => .inr (.inl ⟨v, h⟩)) (fun _ _ h => h)
  | compare t0 => exact .inr (.inr ⟨t0, rfl⟩)
  | commit t0 => exact ⟨t0, rfl⟩

/-- A stop writes the enable, the event and the in-use flag of its timer, one in each micro-step (41_timer.md R147). -/
theorem stopStep_sat (i : PoolIx) (l : StopLabel) (s : State) :
    (stopStep i l s).Sat
      (fun _ t =>
        t = s.setChan i.chan { s.chan i.chan with inten := false }
          ∨ t = s.setChan i.chan { s.chan i.chan with evt := false })
      (fun _ t => t = s.setTimer i { s.timer i with inUse := false }) (fun _ _ => False) := by
  cases l with
  | s1 => exact .inl rfl
  | s2 => exact .inr rfl
  | s3 => rfl

/-- The start of a timer: taken, or a double start, which faults in `Debug` and has no effect in `Release`
(41_timer.md R145). -/
theorem startCheck_sat (i : PoolIx) (cb : BitVec 2) (s : State) :
    (startCheck i cb s).Sat
      (fun _ t =>
        (s.timer i).inUse = false
          ∧ t = (s.setTimer i { inUse := true, expired := false, cbId := cb }).setChan i.chan
                { s.chan i.chan with inten := false })
      (fun _ t => (s.timer i).inUse = true ∧ s.cfg.build = .release ∧ t = s)
      (fun c t => (s.timer i).inUse = true ∧ s.cfg.build = .debug ∧ c = .doubleStart ∧ t = s) := by
  unfold startCheck
  split
  · rename_i h
    cases s.cfg.build
    · exact ⟨h, rfl, rfl, rfl⟩
    · exact ⟨h, rfl, rfl⟩
  · rename_i h
    exact ⟨by simpa using h, rfl⟩

/-- An arbitrated write follows the table (42_sleep.md R183). -/
theorem arbWrite_sat {ℓ : Type} (p : Post) (s : State) :
    (arbWrite p s : Micro ℓ Unit).Sat (fun _ _ => False)
      (fun _ t =>
        (arbTable s.wake p = .write ∧ t = { s with wake := p.reason }) ∨ (arbTable s.wake p = .keep ∧ t = s))
      (fun c t => arbTable s.wake p = .fault c ∧ t = s) := by
  unfold arbWrite
  cases h : arbTable s.wake p with
  | write => exact .inl ⟨rfl, rfl⟩
  | keep => exact .inr ⟨rfl, rfl⟩
  | fault c => exact ⟨rfl, rfl⟩

/-- The wait returns, consuming the latch, or goes to its S2, where `FG` waits (42_sleep.md R186). -/
theorem waitStep_sat (l : WaitLabel) (s : State) :
    (waitStep l s).Sat
      (fun l' t =>
        l' = .s2
          ∧ (t = s ∧ s.fgWaiting = true ∨ t = { s with fgWaiting := true }
              ∨ t = { s with evLatch := false, fgWaiting := true }))
      (fun _ t => t = { s with evLatch := false } ∧ (l = .s2 → s.fgWaiting = false)) (fun _ _ => False) := by
  cases l with
  | s1 =>
    simp only [waitStep]
    cases s.cfg.waitLatch with
    | latched =>
      by_cases h : s.evLatch
      · simp [h, Micro.Sat]
      · simp [h, Micro.Sat]
    | notLatched => exact ⟨rfl, .inr (.inr rfl)⟩
  | s2 =>
    simp only [waitStep]
    by_cases h : s.fgWaiting
    · simp [h, Micro.Sat]
    · simp [h, Micro.Sat]

/-- Every micro-step of every command answers a next state: no command stops the machine. -/
theorem exec_next (i : Instr) (s : State) : ∃ t, exec i s = .next t := by
  cases i <;> exact ⟨_, rfl⟩

end Sys2Proof.Machine
end

