-- ==== Sys2Proof/Laws/Exec.lean ====
section
/-! SUPPORT. What a micro-step of any command can write, said once: a property kept by each of the writes below is kept by
every micro-step of every command (`exec_closed`). -/

namespace Sys2Proof.Machine

/-- No arbitrated write writes Unknown (42_sleep.md R181). -/
theorem Post.reason_ne_unknown (p : Post) : p.reason ≠ .unknown := by cases p <;> decide

/-- `P` is kept by the writes inside the micro-steps of the commands. -/
structure WriteClosed (P : State → Prop) : Prop where
  lastNow : ∀ s v, P s → P { s with lastNow := v }
  chan : ∀ s ch v, P s → P (s.setChan ch v)
  timer : ∀ s i v, P s → P (s.setTimer i v)
  task : ∀ s a b c, P s → P { s with taskInUse := a, taskExpired := b, taskId := c }
  pend : ∀ s, P s → P { s with pendTimerSw := true }
  wait : ∀ s a b, P s → P { s with evLatch := a, fgWaiting := b }
  wake : ∀ s w, w ≠ .unknown → P s → P { s with wake := w }
  inten : ∀ s a b, P s → P { s with intenLf := a, intenHf := b }
  osc : ∀ s x, P s → P (s.startReq x)

/-- `P` is also kept by the whole single-label commands, the result register and the bookkeeping of a command list. -/
structure ExecClosed (P : State → Prop) : Prop extends WriteClosed P where
  res : ∀ s v, P s → P { s with res := v }
  sane : ∀ s v, P s → P { s with sane := v }
  start : ∀ s, P s → P s.startClock
  rebase : ∀ s, P s → P { s with ovf := 0, lastNow := 0 }
  hold : ∀ s f, P s → P (s.hold f)
  complete : ∀ s, P s → P s.complete
  fault : ∀ s c, P s → P (s.raiseFault c)

section

variable {P : State → Prop} (hP : WriteClosed P) {s : State} (hs : P s)
include hP hs

theorem nowStep_all (l : NowLabel) : (nowStep l s).All P := by
  cases l with
  | s1 => exact hs
  | s2 a => exact hs
  | s3 a low =>
    simp only [nowStep, recordNow]
    split
    · split
      · exact hs
      · exact hP.lastNow s _ hs
    · exact hs

theorem markExpired_closed (ch : ChIx) : P (s.markExpired ch) := by
  cases ch with
  | ch3 => exact hP.task s s.taskInUse true s.taskId hs
  | _ => exact hP.timer s _ _ hs

theorem commitArm_closed (ch : ChIx) (timeout t0 : Ticks) : P (s.commitArm ch timeout t0) := by
  have ha := hP.chan s ch { s.chan ch with evt := false, inten := true } hs
  simp only [State.commitArm]
  split
  · exact hP.pend _ (markExpired_closed hP ha ch)
  · exact ha

theorem armStep_all (ch : ChIx) (timeout : Ticks) (l : ArmLabel) : (armStep ch timeout l s).All P := by
  cases l with
  | now l => exact (nowStep_all hP hs l).call fun _ _ h => h
  | compare t0 => exact hP.chan s _ _ hs
  | commit t0 => exact commitArm_closed hP hs ch timeout t0

theorem stopStep_all (i : PoolIx) (l : StopLabel) : (stopStep i l s).All P := by
  cases l with
  | s1 => exact hP.chan s _ _ hs
  | s2 => exact hP.chan s _ _ hs
  | s3 => exact hP.timer s _ _ hs

theorem startCheck_all (i : PoolIx) (cb : BitVec 2) : (startCheck i cb s).All P := by
  unfold startCheck
  split
  · split <;> exact hs
  · exact hP.chan _ _ _ (hP.timer s _ _ hs)

theorem schedCheck_all (id : BitVec 2) : (schedCheck id s).All P := by
  unfold schedCheck
  split
  · split <;> exact hs
  · exact hP.chan _ _ _ (hP.task s true false id hs)

theorem waitStep_all (l : WaitLabel) : (waitStep l s).All P := by
  cases l with
  | s1 =>
    simp only [waitStep]
    split
    · split
      · exact hP.wait s false s.fgWaiting hs
      · exact hP.wait s s.evLatch true hs
    · exact hP.wait s false true hs
  | s2 =>
    simp only [waitStep]
    split
    · exact hs
    · exact hP.wait s false s.fgWaiting hs

omit hP in
theorem saneCheck_all {ℓ : Type} (t : Ticks) : (saneCheck t s : Micro ℓ Ticks).All P := by
  unfold saneCheck
  split
  · exact hs
  · split <;> exact hs

theorem sleepStep_all (t : Ticks) (l : SleepLabel) : (sleepStep t l s).All P := by
  cases l with
  | clear => exact hP.wake s _ (by decide) hs
  | sane => exact (saneCheck_all hs t).call fun _ _ h => h
  | start t => exact (startCheck_all hP hs .t0 0).call fun _ _ h => h
  | arm t l => exact (armStep_all hP hs .ch0 t l).call fun _ _ h => h
  | wait l => exact (waitStep_all hP hs l).call fun _ _ h => h
  | stop l => exact (stopStep_all hP hs .t0 l).call fun _ _ h => h

theorem durationStep_all (d : Ticks) (l : DurationLabel) : (durationStep d l s).All P := by
  cases l with
  | begin l => exact (nowStep_all hP hs l).call fun _ _ h => h
  | again start l => exact (nowStep_all hP hs l).call fun _ _ h => h
  | sleep start t l => exact (sleepStep_all hP hs t l).call fun _ _ h => h
  | test start => simp only [durationStep]; split <;> exact hs

theorem untilStep_all (r : WakeReason) (l : UntilLabel) : (untilStep r l s).All P := by
  cases l with
  | wait l => exact (waitStep_all hP hs l).call fun _ _ h => h
  | test => simp only [untilStep]; split <;> exact hs

theorem lfStep_all (l : LfLabel) : (lfStep l s).All P := by
  cases l with
  | enable => exact hP.inten s true s.intenHf hs
  | request => exact hP.osc s .lf hs
  | loop l => exact (untilStep_all hP hs _ l).call fun _ _ h => h
  | disable => exact hP.inten s false s.intenHf hs

omit hP in
theorem hfCheck_all : (hfCheck s).All P := by unfold hfCheck; split <;> exact hs

theorem hfIrqStep_all (l : HfIrqLabel) : (hfIrqStep l s).All P := by
  cases l with
  | clear => exact hP.wake s _ (by decide) hs
  | enable => exact hP.inten s s.intenLf true hs
  | request => exact hP.osc s .hf hs
  | loop l => exact (untilStep_all hP hs _ l).call fun _ _ h => h
  | disable => exact hP.inten s s.intenLf false hs

theorem arbWrite_all {ℓ : Type} (p : Post) : (arbWrite p s : Micro ℓ Unit).All P := by
  unfold arbWrite
  split
  · exact hP.wake s _ (Post.reason_ne_unknown p) hs
  · exact hs
  · exact hs

omit hP in
theorem foregroundOnly_all {ℓ α : Type} {m : Micro ℓ α} (hm : m.All P) : (foregroundOnly s m).All P := by
  unfold foregroundOnly
  split
  · exact hs
  · exact hm

omit hP in
theorem withPoolIx_all {ℓ α : Type} (idx : BitVec 2) {m : PoolIx → Micro ℓ α} (hm : ∀ i, (m i).All P) :
    (withPoolIx idx s m).All P := by
  unfold withPoolIx
  split
  · exact hm _
  · exact hs

end

/-- A property kept by every write, and by the bookkeeping of a command list, is kept by every micro-step of every
command. -/
theorem exec_closed {P : State → Prop} (hP : ExecClosed P) {i : Instr} {s t : State} (hs : P s)
    (h : exec i s = .next t) : P t := by
  have hW := hP.toWriteClosed
  have settle : ∀ {ℓ α : Type} (m : Micro ℓ α) (i : Instr) (into : ℓ → Label) (res : α → State → State), m.All P →
      (∀ v u, P u → P (res v u)) → P (m.settle i into res) := fun m i into res hm hr =>
    Micro.Sat.settle hm (fun _ _ h => hP.hold _ _ h) (fun v u h => hP.complete _ (hr v u h))
      (fun c u h => hP.fault u c h)
  have post : ∀ p, P (s.post p) := fun p => by
    unfold State.post arbWrite
    cases arbTable s.wake p with
    | write => exact hP.complete _ (hP.wake s _ (Post.reason_ne_unknown p) hs)
    | keep => exact hP.complete _ hs
    | fault c => exact hP.fault s c hs
  cases i <;> cases h
  case wakeRead => exact hP.complete _ (hP.res s _ hs)
  case postMsg => exact post _
  case postBrownout => exact post _
  case lfStart =>
    refine settle _ _ _ _ (foregroundOnly_all hs ?_) fun _ _ h => h
    split
    · exact lfStep_all hW hs _
    · exact hP.wake s _ (by decide) hs
  case hfStartDelay =>
    refine settle _ _ _ _ (foregroundOnly_all hs ?_) fun _ _ h => h
    split
    · exact durationStep_all hW hs _ _
    · exact hP.osc s _ hs
  case hfStartIrq =>
    refine settle _ _ _ _ (foregroundOnly_all hs ?_) fun _ _ h => h
    split
    · exact hfIrqStep_all hW hs _
    · exact hfCheck_all hs
  case clkStart =>
    split
    · exact hP.fault s _ hs
    · exact hP.complete _ (hP.start s hs)
  case clkNow => exact settle _ _ _ _ (nowStep_all hW hs _) fun _ u h => hP.res u _ h
  case clkReset0 => exact hP.complete _ (hP.rebase s hs)
  case clkIsRunning => exact hP.complete _ (hP.res s _ hs)
  case clkWaitTick =>
    refine settle _ _ _ _ ?_ fun _ _ h => h
    unfold waitTickStep
    split
    · exact hs
    · split <;> exact hs
  case tmrStart =>
    refine settle _ _ _ _ (withPoolIx_all hs _ fun j => ?_) fun _ _ h => h
    split
    · exact armStep_all hW hs _ _ _
    · exact startCheck_all hW hs _ _
  case tmrCancel =>
    refine settle _ _ _ _ (withPoolIx_all hs _ fun j => ?_) fun _ _ h => h
    split
    · exact stopStep_all hW hs _ _
    · exact hs
  case tmrIsStarted =>
    split
    · exact hP.complete _ (hP.res s _ hs)
    · exact hP.fault s _ hs
  case tmrIsExpired =>
    split
    · exact hP.complete _ (hP.res s _ hs)
    · exact hP.fault s _ hs
  case taskSched =>
    refine settle _ _ _ _ ?_ fun _ _ h => h
    split
    · exact armStep_all hW hs _ _ _
    · exact schedCheck_all hW hs _
  case slpTimeout => exact settle _ _ _ _ (foregroundOnly_all hs (sleepStep_all hW hs _ _)) fun _ _ h => h
  case slpDuration =>
    refine settle _ _ _ _ (foregroundOnly_all hs ?_) fun _ _ h => h
    split
    · exact durationStep_all hW hs _ _
    · exact hs
  case slpUntil =>
    refine settle _ _ _ _ (foregroundOnly_all hs ?_) fun _ _ h => h
    split
    · exact untilStep_all hW hs _ _
    · exact hs
  case slpIsTimer => exact hP.complete _ (hP.res s _ hs)
  case slpSetSane => exact hP.complete _ (hP.sane s _ hs)

end Sys2Proof.Machine
end

