-- ==== Sys2Proof/Laws/PerInstr.lean ====
section
/-! SUPPORT. One lemma for each command: its word selects the row of the opcode map that has its mnemonic
(30_encoding.md R84, R91). -/

namespace Sys2Proof.Laws.EncodesItsRow

/-- The row of the command's mnemonic stands in the opcode map, and the command's word selects it. -/
def Statement (i : Instr) : Prop :=
  ∃ r ∈ opcodeMap, r.mnemonic = i.mnemonic ∧ r.selects (encode i) = true

theorem append_and_append {a b : Nat} (x x' : BitVec a) (y y' : BitVec b) :
    (x ++ y) &&& (x' ++ y') = (x &&& x') ++ (y &&& y') := by
  ext k hk
  simp only [BitVec.getElem_and, BitVec.getElem_append]
  split <;> simp

/-- Masking a packed word masks its fields. -/
theorem packT_and (o o' : BitVec 4) (i i' c c' : BitVec 2) (m m' : Ticks) :
    packT o i c m &&& packT o' i' c' m' = packT (o &&& o') (i &&& i') (c &&& c') (m &&& m') := by
  have h (o : BitVec 4) (i c : BitVec 2) (m : Ticks) : packT o i c m = (o ++ i ++ c ++ m : BitVec (4 + 2 + 2 + 24)) := rfl
  rw [h (o &&& o'), ← append_and_append, ← append_and_append, ← append_and_append]
  rfl

/-- A packed word selects a row whose mask keeps whole fields or none of them. -/
theorem selects_packT {r : Row} (o o' : BitVec 4) (i i' c c' : BitVec 2) (m m' : Ticks)
    (hm : r.mask = packT o' i' c' m') (hp : r.pattern = packT (o &&& o') (i &&& i') (c &&& c') (m &&& m')) :
    r.selects (packT o i c m) = true := by
  rw [Row.selects, hm, hp, packT_and, beq_iff_eq]

theorem wakeRead : Statement .wakeRead := ⟨opcodeMap[0], by decide, rfl, by decide⟩

theorem postMsg : Statement .postMsg := ⟨opcodeMap[1], by decide, rfl, by decide⟩

theorem postBrownout : Statement .postBrownout := ⟨opcodeMap[2], by decide, rfl, by decide⟩

theorem lfStart : Statement .lfStart := ⟨opcodeMap[3], by decide, rfl, by decide⟩

theorem hfStartDelay : Statement .hfStartDelay := ⟨opcodeMap[4], by decide, rfl, by decide⟩

theorem hfStartIrq : Statement .hfStartIrq := ⟨opcodeMap[5], by decide, rfl, by decide⟩

theorem clkStart : Statement .clkStart := ⟨opcodeMap[6], by decide, rfl, by decide⟩

theorem clkNow : Statement .clkNow := ⟨opcodeMap[7], by decide, rfl, by decide⟩

theorem clkReset0 : Statement .clkReset0 := ⟨opcodeMap[8], by decide, rfl, by decide⟩

theorem clkIsRunning : Statement .clkIsRunning := ⟨opcodeMap[9], by decide, rfl, by decide⟩

theorem clkWaitTick : Statement .clkWaitTick := ⟨opcodeMap[10], by decide, rfl, by decide⟩

theorem tmrStart (idx cb : BitVec 2) (timeout : Ticks) : Statement (.tmrStart idx cb timeout) :=
  ⟨opcodeMap[11], by decide, rfl,
    selects_packT 6 15 idx 0 cb 0 timeout 0 (by decide) (by simp; decide)⟩

theorem tmrCancel (idx : BitVec 2) : Statement (.tmrCancel idx) :=
  ⟨opcodeMap[12], by decide, rfl,
    selects_packT 7 15 idx 0 0 3 0 0xFFFFFF (by decide) (by simp; decide)⟩

theorem tmrIsStarted (idx : BitVec 2) : Statement (.tmrIsStarted idx) :=
  ⟨opcodeMap[13], by decide, rfl,
    selects_packT 8 15 idx 0 0 3 0 0xFFFFFF (by decide) (by simp; decide)⟩

theorem tmrIsExpired (idx : BitVec 2) : Statement (.tmrIsExpired idx) :=
  ⟨opcodeMap[14], by decide, rfl,
    selects_packT 9 15 idx 0 0 3 0 0xFFFFFF (by decide) (by simp; decide)⟩

theorem taskSched (id : BitVec 2) (duration : Ticks) : Statement (.taskSched id duration) :=
  ⟨opcodeMap[15], by decide, rfl,
    selects_packT 10 15 0 3 id 0 duration 0 (by decide) (by simp; decide)⟩

theorem slpTimeout (t : Ticks) : Statement (.slpTimeout t) :=
  ⟨opcodeMap[16], by decide, rfl,
    selects_packT 11 15 0 3 0 3 t 0 (by decide) (by simp; decide)⟩

theorem slpDuration (d : Ticks) : Statement (.slpDuration d) :=
  ⟨opcodeMap[17], by decide, rfl,
    selects_packT 12 15 0 3 0 3 d 0 (by decide) (by simp; decide)⟩

theorem slpUntil (reason : WakeReason) : Statement (.slpUntil reason) := ⟨opcodeMap[18], by decide, rfl, by cases reason <;> decide⟩

theorem slpIsTimer : Statement .slpIsTimer := ⟨opcodeMap[19], by decide, rfl, by decide⟩

theorem slpSetSane (m : Ticks) : Statement (.slpSetSane m) :=
  ⟨opcodeMap[20], by decide, rfl,
    selects_packT 15 15 0 3 0 3 m 0 (by decide) (by simp; decide)⟩

end Sys2Proof.Laws.EncodesItsRow
end

