-- ==== Sys2Proof/Laws/Step.lean ====
section
/-! SUPPORT. What one step can do, said once: the cases of a move, and the moves that change nothing. -/

namespace Sys2Proof.Machine

/-- A step is the next move, made in the state without it. -/
theorem step_eq (s : State) : step s = moveStep s.nextMove s.takeMove := rfl

@[simp] theorem State.nextMove_cons {s : State} {m : Move} {rest : List Move} (h : s.sched = m :: rest) :
    s.nextMove = m := by simp [State.nextMove, h]

@[simp] theorem State.takeMove_cons {s : State} {m : Move} {rest : List Move} (h : s.sched = m :: rest) :
    s.takeMove = { s with sched := rest } := by simp [State.takeMove, h]

/-- What a foreground move can do: nothing, because `FG` may not step or has no command; a micro-step of the command under
execution; the first micro-step of the next command; the fault of an illegal word (00_scope.md R4, 30_encoding.md R81). -/
theorem fgStep_cases {s t : State} (h : fgStep s = .next t) :
    t = s
      ∨ (s.fgMayStep = true ∧ ∃ f, s.fgFrame = some f ∧ exec f.cmd s = .next t)
      ∨ (s.fgMayStep = true ∧ s.fgFrame = none
          ∧ ∃ w, fetch s.fgWords s.pc = .word w
              ∧ ((∃ i, decode w = .ok i ∧ exec i s = .next t)
                  ∨ (∃ e, decode w = .error e ∧ t = s.raiseFault .illegalCommand))) := by
  unfold fgStep at h
  split at h
  · rename_i hm
    split at h
    · rename_i f hf
      exact .inr (.inl ⟨hm, f, hf, h⟩)
    · rename_i hf
      split at h
      · cases h
      · cases h; exact .inl rfl
      · rename_i w hw
        refine .inr (.inr ⟨hm, hf, w, hw, ?_⟩)
        unfold runWord at h
        split at h
        · rename_i i hi; exact .inl ⟨i, hi, h⟩
        · rename_i e he; cases h; exact .inr ⟨e, he, rfl⟩
  · cases h; exact .inl rfl

/-- What a move of the interrupt sequencer can do: nothing; an entry; a micro-step of the handler; the end of its list; a
micro-step of a command of its list; the fault of an illegal word (60_exceptions.md R251 to R261). -/
theorem isrStep_cases {line : Line} {s t : State} (h : isrStep line s = .next t) :
    t = s
      ∨ (s.fault = false ∧ s.isrActive = false ∧ s.requests line = true ∧ t = s.enter line)
      ∨ (s.fault = false ∧ s.isrActive = true
          ∧ ∃ f, s.isrFrame = some f
              ∧ ((f.stack = [] ∧ t = handlerStep f s)
                  ∨ ∃ l rest, f.stack = l :: rest
                      ∧ ((∃ c, l.frame = some c ∧ exec c.cmd s = .next t)
                          ∨ (l.frame = none ∧ fetch (listWords s.cfg l.list) l.pc = .atEnd ∧ t = s.popList f)
                          ∨ (l.frame = none
                              ∧ ∃ w, fetch (listWords s.cfg l.list) l.pc = .word w
                                  ∧ ((∃ i, decode w = .ok i ∧ exec i s = .next t)
                                      ∨ (∃ e, decode w = .error e ∧ t = s.raiseFault .illegalCommand)))))) := by
  unfold isrStep at h
  split at h
  · cases h; exact .inl rfl
  · rename_i hf
    have hf : s.fault = false := by simpa using hf
    split at h
    · rename_i ha
      split at h
      · cases h; exact .inl rfl
      · rename_i f hfr
        refine .inr (.inr ⟨hf, ha, f, hfr, ?_⟩)
        split at h
        · rename_i hs; cases h; exact .inl ⟨hs, rfl⟩
        · rename_i l rest hs
          refine .inr ⟨l, rest, hs, ?_⟩
          unfold listStep at h
          split at h
          · rename_i c hc; exact .inl ⟨c, hc, h⟩
          · rename_i hc
            split at h
            · cases h
            · rename_i he; cases h; exact .inr (.inl ⟨hc, he, rfl⟩)
            · rename_i w hw
              refine .inr (.inr ⟨hc, w, hw, ?_⟩)
              unfold runWord at h
              split at h
              · rename_i i hi; exact .inl ⟨i, hi, h⟩
              · rename_i e he; cases h; exact .inr ⟨e, he, rfl⟩
    · rename_i ha
      split at h
      · rename_i hr; cases h; exact .inr (.inl ⟨hf, by simpa using ha, hr, rfl⟩)
      · cases h; exact .inl rfl

/-- `P` is kept by the writes of the handlers beside those of the commands (60_exceptions.md R252 to R261). -/
structure HandlerClosed (P : State → Prop) : Prop where
  chan : ∀ s ch v, P s → P (s.setChan ch v)
  timer : ∀ s i v, P s → P (s.setTimer i v)
  task : ∀ s a b, P s → P { s with taskInUse := a, taskExpired := b }
  wake : ∀ s p, P s → P { s with wake := Post.reason p }
  emit : ∀ s e, P s → P (s.emit e)
  fault : ∀ s c, P s → P (s.raiseFault c)
  overflow : ∀ s, P s → P s.countOverflow
  started : ∀ s a b, P s → P { s with evtLfStarted := s.evtLfStarted && a, evtHfStarted := s.evtHfStarted && b }
  frame : ∀ s f, s.isrFrame.isSome → P s → P { s with isrFrame := some f }
  leave : ∀ s, P s → P s.leave

/-- A property kept by every write of the handlers is kept by every micro-step of every handler. -/
theorem handlerStep_closed {P : State → Prop} (hP : HandlerClosed P) {f : IsrFrame} {s : State}
    (hf : s.isrFrame = some f) (hs : P s) : P (handlerStep f s) := by
  have at_ : ∀ (u : State) (g : IsrFrame) l, u.isrFrame.isSome → P u → P (u.atHandler g l) := fun u g l hu h =>
    hP.frame u _ hu h
  have push : ∀ (u : State) (g : IsrFrame) l i, u.isrFrame.isSome → P u → P (u.pushList g l i) := fun u g l i hu h =>
    hP.frame u _ hu h
  have hsome : s.isrFrame.isSome := by simp [hf]
  have post : ∀ (u : State) (p : Post) (l : HandlerLabel), u.isrFrame.isSome → P u → P (postFrom f l p u) :=
      fun u p l hu h => by
    unfold postFrom arbWrite
    cases arbTable u.wake p with
    | write => exact at_ { u with wake := p.reason } f l hu (hP.wake u p h)
    | keep => exact at_ u f l hu h
    | fault c => exact hP.fault u c h
  have disp : ∀ next j cb tag, P (dispatch f next j cb tag s) := fun next j cb tag => by
    unfold dispatch
    dsimp only
    split
    · exact post (s.emit (.callback j cb tag)) (tagPost tag) next (by simpa using hsome) (hP.emit s _ hs)
    · exact push _ _ _ _ (by simpa using hsome) (hP.emit s _ hs)
  unfold handlerStep
  split
  case h_1 => exact at_ _ _ _ (by simpa using hsome) (hP.overflow s hs)
  case h_2 => split; exacts [hs, at_ _ _ _ hsome hs]
  case h_3 => exact at_ _ _ _ hsome hs
  case h_4 j todo _ =>
    refine at_ _ _ _ (by simpa using hsome) ?_
    unfold State.scanIndex
    split
    · exact hP.timer _ _ _ (hP.chan s _ _ hs)
    · exact hs
  case h_5 => exact at_ _ _ _ hsome hs
  case h_6 => exact at_ _ _ _ hsome hs
  case h_7 => split; exacts [at_ _ _ _ hsome hs, at_ _ _ _ hsome hs]
  case h_8 j cb l todo _ =>
    cases l with
    | s1 => exact at_ _ _ _ (by simpa using hsome) (hP.chan s _ _ hs)
    | s2 => exact at_ _ _ _ (by simpa using hsome) (hP.chan s _ _ hs)
    | s3 => exact at_ _ _ _ (by simpa using hsome) (hP.timer s _ _ hs)
  case h_9 => exact disp _ _ _ _
  case h_10 => split; exacts [disp _ _ _ _, at_ _ _ _ hsome hs]
  case h_11 =>
    refine at_ _ _ _ (by simpa using hsome) ?_
    unfold State.scanTask
    split
    · exact hP.task _ s.taskInUse true (hP.chan s _ _ hs)
    · exact hs
  case h_12 =>
    unfold handleTask
    split
    · exact push _ _ _ _ (by simpa using hsome) (hP.emit _ _ (hP.chan s _ _ hs))
    · exact at_ _ _ _ hsome hs
  case h_13 => exact at_ { s with taskInUse := false } _ _ hsome (hP.task s false s.taskExpired hs)
  case h_14 =>
    refine at_ { s with evtLfStarted := _ } _ _ hsome ?_
    have := hP.started s (!(s.evtLfStarted && s.intenLf)) true hs
    cases h1 : s.evtLfStarted <;> cases h2 : s.intenLf <;> simpa [h1, h2] using this
  case h_15 => split; exacts [post _ _ _ hsome hs, at_ _ _ _ hsome hs]
  case h_16 =>
    refine at_ { s with evtHfStarted := _ } _ _ hsome ?_
    have := hP.started s true (!(s.evtHfStarted && s.intenHf)) hs
    cases h1 : s.evtHfStarted <;> cases h2 : s.intenHf <;> simpa [h1, h2] using this
  case h_17 => split; exacts [post _ _ _ hsome hs, at_ _ _ _ hsome hs]
  case h_18 => exact post _ _ _ hsome hs
  case h_19 => exact post _ _ _ hsome hs
  case h_20 => exact hP.leave s hs

/-- Past a word of a legal list `PC` neither wraps nor passes the end of the list (10_state.md R22; log 14). -/
theorem pc_past_word {l : List Word} {pc : Offset} {w : Word} (hw : wordAt l pc = some w) (hl : l.length ≤ 2 ^ 30)
    (h4 : pc.toNat % 4 = 0) : (pc + 4).toNat = pc.toNat + 4 ∧ (pc + 4).toNat ≤ 4 * l.length := by
  have hi : pc.toNat / 4 < l.length := (List.getElem?_eq_some_iff.mp hw).1
  have h : (pc + 4).toNat = (pc.toNat + 4) % 2 ^ 33 := BitVec.toNat_add pc 4
  omega

end Sys2Proof.Machine
end

