-- ==== Sys2Proof/Laws/Window.lean ====
section
/-! SUPPORT. What an access to the register window reaches, by its offset (20_memory.md R62, R65; 10_state.md R44). -/

namespace Sys2Proof.Machine

variable (s : State)

theorem base_add_sub (off : Word) : s.cfg.base + off - s.cfg.base = off := by
  rw [BitVec.add_comm, BitVec.add_sub_cancel]

/-- An aligned four-byte read at an offset of the window. -/
theorem memRead_offset (off : Word) (h : off.toNat % 4 = 0) :
    s.memRead (s.cfg.base + off) 4 = (regAt off.toNat).bind s.regValue := by
  rw [State.memRead, State.target, base_add_sub, if_pos ⟨rfl, h⟩]

/-- An access that is not four bytes wide or not aligned reaches no register. -/
theorem target_refused {addr : Word} {n : Nat} (h : n ≠ 4 ∨ (addr - s.cfg.base).toNat % 4 ≠ 0) : s.target addr n = none := by
  rw [State.target, if_neg]
  rintro ⟨h1, h2⟩
  exact h.elim (· h1) (· h2)

/-- Every readable register has a value. -/
theorem regValue_isSome (r : Reg) (h : r ≠ .cmd) : (s.regValue r).isSome = true := by cases r <;> simp_all [State.regValue]

/-- A command write takes one of three ways: it is held, it waits, or it joins the foreground's words (R66; log 6). -/
theorem issue_cases (w : Word) :
    (s.issue w = { s with cmdHeld := some w } ∧ s.busy = true ∧ s.fault = false ∧ s.cmdHeld = none)
    ∨ (s.issue w = s ∧ s.busy = true ∧ s.fault = false ∧ s.cmdHeld.isSome = true)
    ∨ (s.issue w = { s with issued := s.issued ++ [w] } ∧ (s.busy = false ∨ s.fault = true)) := by
  unfold State.issue
  cases hb : s.busy <;> cases hf : s.fault <;> simp_all
  cases hh : s.cmdHeld <;> simp

end Sys2Proof.Machine
end

