-- ==== Sys2Proof/Machine/Assembler.lean ====
section
/-! DEFINITION. The assembler (30_encoding.md R90, R91): one source line to one command word. An operand out of its range is
refused, never truncated. Text is a list of characters. -/

namespace Sys2Proof.Machine

/-- The value of a decimal digit. -/
def decDigit (c : Char) : Option Nat := if '0' ≤ c ∧ c ≤ '9' then some (c.toNat - '0'.toNat) else none

/-- The value of a hexadecimal digit, in either case of letter. -/
def hexDigit (c : Char) : Option Nat :=
  if '0' ≤ c ∧ c ≤ '9' then some (c.toNat - '0'.toNat)
  else if 'a' ≤ c ∧ c ≤ 'f' then some (c.toNat - 'a'.toNat + 10)
  else if 'A' ≤ c ∧ c ≤ 'F' then some (c.toNat - 'A'.toNat + 10)
  else none

/-- A digit string in base `b` after the digits already read, whose value is `acc`. -/
def digitsFrom (b : Nat) (digit : Char → Option Nat) (acc : Nat) : List Char → Option Nat
  | [] => some acc
  | c :: rest =>
    match digit c with
    | some d => digitsFrom b digit (acc * b + d) rest
    | none => none

/-- A decimal number: at least one digit. -/
def decimal : List Char → Option Nat
  | [] => none
  | cs => digitsFrom 10 decDigit 0 cs

/-- A decimal number, or `0x` and at least one hexadecimal digit (R90). -/
def number : List Char → Option Nat
  | '0' :: 'x' :: [] => none
  | '0' :: 'x' :: cs => digitsFrom 16 hexDigit 0 cs
  | cs => decimal cs

/-- An operand value in its field, refused where it does not fit (R90). -/
def inField (w : Nat) : Option Nat → Option (BitVec w)
  | some v => if v < 2 ^ w then some (BitVec.ofNat w v) else none
  | none => none

/-- `idx` and `cb`: a decimal 0..3 (R90). -/
def smallOperand (cs : List Char) : Option (BitVec 2) := inField 2 (decimal cs)

/-- `ticks`: a decimal or hexadecimal 0..0xFFFFFF (R90). -/
def ticksOperand (cs : List Char) : Option Ticks := inField 24 (number cs)

/-- The names of the wake reasons in source text (R90). -/
def reasonNames : List (String × WakeReason) :=
  [("cleared", .cleared), ("msg", .messageReceived), ("sleeptimer", .sleepTimerExpired),
    ("ovf_other", .counterOverflowOrOther), ("brownout", .brownoutWarning), ("hfstarted", .hfClockStarted),
    ("lfstarted", .lfClockStarted), ("unknown", .unknown)]

/-- `reason`: a name, or a decimal 0..7 (R90). -/
def reasonOperand (cs : List Char) : Option WakeReason :=
  match reasonNames.find? fun p => p.1.toList == cs with
  | some p => some p.2
  | none => (inField 3 (decimal cs)).map WakeReason.ofCode

/-- The text without the spaces before it. -/
def skipSpaces (cs : List Char) : List Char := cs.dropWhile (· == ' ')

/-- The text without the spaces around it. -/
def trim (cs : List Char) : List Char := (skipSpaces (skipSpaces cs).reverse).reverse

/-- The operands of a line: none where only spaces are left, else the texts between commas, trimmed. -/
def operandTexts (cs : List Char) : List (List Char) :=
  if skipSpaces cs = [] then [] else (cs.splitOn ',').map trim

/-- The word of a mnemonic in capitals with its operand texts (R90, R91); `.WORD` is the raw word. -/
def assembleOp (name : List Char) (ops : List (List Char)) : Option Word :=
  let plain (i : Instr) : Option Word := if ops = [] then some (encode i) else none
  let is (m : String) : Bool := m.toList == name
  if is "WAKE.READ" then plain .wakeRead
  else if is "POST.MSG" then plain .postMsg
  else if is "POST.BROWNOUT" then plain .postBrownout
  else if is "LF.START" then plain .lfStart
  else if is "HF.START.DELAY" then plain .hfStartDelay
  else if is "HF.START.IRQ" then plain .hfStartIrq
  else if is "CLK.START" then plain .clkStart
  else if is "CLK.NOW" then plain .clkNow
  else if is "CLK.RESET0" then plain .clkReset0
  else if is "CLK.ISRUNNING" then plain .clkIsRunning
  else if is "CLK.WAITTICK" then plain .clkWaitTick
  else if is "SLP.ISTIMER" then plain .slpIsTimer
  else
    match ops with
    | [a] =>
      if is "TMR.CANCEL" then (smallOperand a).map fun i => encode (.tmrCancel i)
      else if is "TMR.ISSTARTED" then (smallOperand a).map fun i => encode (.tmrIsStarted i)
      else if is "TMR.ISEXPIRED" then (smallOperand a).map fun i => encode (.tmrIsExpired i)
      else if is "SLP.TIMEOUT" then (ticksOperand a).map fun t => encode (.slpTimeout t)
      else if is "SLP.DURATION" then (ticksOperand a).map fun t => encode (.slpDuration t)
      else if is "SLP.SETSANE" then (ticksOperand a).map fun t => encode (.slpSetSane t)
      else if is "SLP.UNTIL" then (reasonOperand a).map fun r => encode (.slpUntil r)
      else if is ".WORD" then inField 32 (number a)
      else none
    | [a, b] =>
      if is "TASK.SCHED" then
        match smallOperand a, ticksOperand b with
        | some id, some t => some (encode (.taskSched id t))
        | _, _ => none
      else none
    | [a, b, c] =>
      if is "TMR.START" then
        match smallOperand a, smallOperand b, ticksOperand c with
        | some i, some cb, some t => some (encode (.tmrStart i cb t))
        | _, _, _ => none
      else none
    | _ => none

/-- One source line: `MNEMONIC operands`, the mnemonic in any case of letter, operands separated by commas (R90; log 20). -/
def assembleLine (line : List Char) : Option Word :=
  let l := skipSpaces line
  assembleOp ((l.takeWhile (· != ' ')).map Char.toUpper) (operandTexts (l.dropWhile (· != ' ')))

/-- A source program: one command a line; refused as a whole where a line is (R90). -/
def assemble (lines : List (List Char)) : Option (List Word) := lines.mapM assembleLine

end Sys2Proof.Machine
end

