-- ==== Sys2Proof/Tests/Slice0.lean ====
section
/-! SUPPORT. The author's own tests. A test's expected value is one of spec/95_test_vectors.md (its number stands in the
comment) or worked out by hand from the rule named; none is the model's own answer. After them, for each statement of
Certificates/Slice0/Obligations.lean with hypotheses, a theorem `witness_<Name>…` with concrete states and operands that meet
them. -/

namespace Sys2Proof.Tests

open Sys2Proof Sys2Proof.Machine

/-! ## Small configurations and states -/

/-- The common setting of spec/95_test_vectors.md. -/
def common : Params :=
  { nTimers := .two, build := .debug, minTimeout := 2, cmpGuard := 2, waitLatch := .latched, spuriousWake := false
    faultedWake := false, hfDelay := 50, base := 0x40000000
    client1 := { onExpiry := [0x90000000], onOther := [] }
    client2 := { onExpiry := [], onOther := [0xB0000032] }
    client3 := { onExpiry := [0x07000000], onOther := [] }
    task0 := [], task1 := [], task2 := [0x20000000], task3 := [], program := [] }

/-- The other value of each two-valued parameter. -/
def other : Params := { common with nTimers := .three, build := .release, waitLatch := .notLatched, spuriousWake := true }

/-- Reset, then the clock running as after LF.START and CLK.START, at the given tally and counter. -/
def running (p : Params) (ovf : Word) (counter : Ticks) : State :=
  { State.resetWith p with
    lfclk := .running, counterRunning := true, intenOvf := true, poolInit := true, ovf := ovf, counter := counter }

/-- The next move is `m`. -/
def next (m : Move) (s : State) : State := { s with sched := [m] }

/-- `w` is the only word of the foreground program. -/
def programmed (w : Word) (s : State) : State := { s with cfg := { s.cfg with program := [w] } }

/-- The foreground has `i` under execution at `l`. -/
def fgAt (i : Instr) (l : Label) (s : State) : State := { s with fgFrame := some { cmd := i, label := l } }

/-- The timer handler is active at `l`. -/
def handlerAt (l : HandlerLabel) (s : State) : State :=
  { s with isrActive := true, isrFrame := some { line := .timer, label := l, handled := [], stack := [] } }

/-- The timer handler runs a client's list, with `c` under execution or between two commands. -/
def inClient (cb : BitVec 2) (tag : CallbackTag) (c : Option CmdFrame) (s : State) : State :=
  { s with
    isrActive := true
    isrFrame := some
      { line := .timer, label := .taskScan, handled := []
        stack := [{ list := .client cb tag, pc := 0, frame := c }] } }

/-- The outcome is a next state for which `f` holds. -/
def after (o : Host.Outcome State Fault Refusal) (f : State → Bool) : Bool :=
  match o with
  | .next s => f s
  | .fault _ => false
  | .refused _ => false

/-- The outcome is a next state. -/
def completes (o : Host.Outcome State Fault Refusal) : Bool := after o fun _ => true

theorem exists_next_of_completes {o : Host.Outcome State Fault Refusal} (h : completes o = true) : ∃ t, o = .next t := by
  cases o with
  | next t => exact ⟨t, rfl⟩
  | fault r => exact nomatch h
  | refused r => exact nomatch h

/-- What the decoder reads, if anything. -/
def reads (w : Word) : Option Instr := (decode w).toOption

/-! ## Decoding: words written out from R84 and R83, and the vectors E1 to E19 -/

theorem test_decode_system : reads 0x01000000 = some .wakeRead ∧ reads 0x02000000 = some .postMsg
    ∧ reads 0x03000000 = some .postBrownout ∧ reads 0x04000000 = some .lfStart ∧ reads 0x05000000 = some .hfStartDelay
    ∧ reads 0x06000000 = some .hfStartIrq := by decide

theorem test_decode_clock : reads 0x10000000 = some .clkStart ∧ reads 0x20000000 = some .clkNow
    ∧ reads 0x30000000 = some .clkReset0 ∧ reads 0x40000000 = some .clkIsRunning
    ∧ reads 0x50000000 = some .clkWaitTick := by decide

/-- E6, E7, E9 and two words of R84's rows 8 and 9. -/
theorem test_decode_timer : reads 0x61000064 = some (.tmrStart 0 1 100) ∧ reads 0x66FFFFFF = some (.tmrStart 1 2 0xFFFFFF)
    ∧ reads 0x78000000 = some (.tmrCancel 2) ∧ reads 0x84000000 = some (.tmrIsStarted 1)
    ∧ reads 0x98000000 = some (.tmrIsExpired 2) := by decide

/-- E12. -/
theorem test_decode_task : reads 0xA3000005 = some (.taskSched 3 5) := by decide

/-- E14, E16, E19 and words of R84's rows 12 and 14. -/
theorem test_decode_sleep : reads 0xB0000032 = some (.slpTimeout 50) ∧ reads 0xC000012C = some (.slpDuration 300)
    ∧ reads 0xD0000005 = some (.slpUntil .hfClockStarted) ∧ reads 0xD0000007 = some (.slpUntil .unknown)
    ∧ reads 0xE0000000 = some .slpIsTimer ∧ reads 0xF0FFFFFF = some (.slpSetSane 0xFFFFFF) := by decide

/-- E1 to E4. -/
theorem test_decode_illegal_system : [0x00000000#32, 0x07000000, 0x0F000000, 0x01000001].map reads = [none, none, none, none] :=
  by decide

/-- E5, E8, E11. -/
theorem test_decode_illegal_clock_timer :
    [0x10000001#32, 0x14000000, 0x11000000, 0x79000000, 0x80000001].map reads = [none, none, none, none, none] := by decide

/-- E13, E15, E17, E18. -/
theorem test_decode_illegal_task_sleep :
    [0xA4000005#32, 0xB1000032, 0xD0000008, 0xE0000001].map reads = [none, none, none, none] := by decide

/-- The host's entry: a word of fewer bits has zeros above them. -/
theorem test_decode_table_word : decodeTableWord 32 0x61000064 = some (.tmrStart 0 1 100)
    ∧ decodeTableWord 8 0x61000064 = none := by decide

/-- The host's entry: the placed word is the one the very next step runs. -/
theorem test_withFetchWord : after (step (State.reset.withFetchWord 32 0xF00003E8)) (fun t => t.sane == 1000) = true := by
  decide

/-! ## The assembler: E23 to E31 and the refusals of R90 -/

theorem test_assemble : assembleLine "TMR.START 0, 1, 100".toList = some 0x61000064
    ∧ assembleLine "tmr.start 1, 2, 0xFFFFFF".toList = some 0x66FFFFFF
    ∧ assembleLine "TASK.SCHED 2, 0x10".toList = some 0xA2000010
    ∧ assembleLine "SLP.UNTIL lfstarted".toList = some 0xD0000006 ∧ assembleLine "SLP.UNTIL 5".toList = some 0xD0000005
    ∧ assembleLine ".word 0x00000000".toList = some 0 := by decide

theorem test_assemble_refuses : assembleLine "TMR.START 0, 4, 1".toList = none
    ∧ assembleLine "SLP.TIMEOUT 0x1000000".toList = none ∧ assembleLine "CLK.NOW 1".toList = none := by decide

/-! ## Well-formedness: an ill-formed term for each check -/

/-- R87: with two timers index 2 is out of range, with three index 3 is. -/
theorem test_illFormed_index : (∀ i ∈ [Instr.tmrStart 2 0 5, .tmrCancel 2, .tmrIsStarted 2, .tmrIsExpired 2],
      i.wellFormed .two = false ∧ i.wellFormed .three = true)
    ∧ ∀ i ∈ [Instr.tmrStart 3 0 5, .tmrCancel 3, .tmrIsStarted 3, .tmrIsExpired 3],
      i.wellFormed .two = false ∧ i.wellFormed .three = false := by decide

theorem test_wellFormed_params : common.wellFormed = true ∧ other.wellFormed = true := by decide

/-- 00_scope.md section 4: the legal values of P_MIN_TIMEOUT, P_CMP_GUARD, P_HF_DELAY, P_BASE. -/
theorem test_illFormed_params : ({ common with minTimeout := 0, cmpGuard := 0 } : Params).wellFormed = false
    ∧ ({ common with cmpGuard := 3 } : Params).wellFormed = false ∧ ({ common with hfDelay := 0 } : Params).wellFormed = false
    ∧ ({ common with base := 0x40000080 } : Params).wellFormed = false := by decide

/-- R22: a list of one word more than 2^30 is not legal. -/
theorem test_illFormed_length : legalLength (List.replicate (2 ^ 30 + 1) 0) = false := by
  rw [legalLength, List.length_replicate]; decide

/-- Each list of a configuration is checked. -/
theorem test_illFormed_lists (l : List Word) (h : legalLength l = false) :
    ({ common with client1 := ⟨l, []⟩ } : Params).wellFormed = false
    ∧ ({ common with client2 := ⟨[], l⟩ } : Params).wellFormed = false
    ∧ ({ common with client3 := ⟨l, []⟩ } : Params).wellFormed = false
    ∧ ({ common with task0 := l } : Params).wellFormed = false ∧ ({ common with task1 := l } : Params).wellFormed = false
    ∧ ({ common with task2 := l } : Params).wellFormed = false ∧ ({ common with task3 := l } : Params).wellFormed = false
    ∧ ({ common with program := l } : Params).wellFormed = false := by
  simp [Params.wellFormed, ClientLists.wellFormed, h]

/-! ## One step of each command -/

/-- S2: WAKE = 4 reads as 4. -/
theorem test_wakeRead : after (exec .wakeRead { running common 0 0 with wake := .brownoutWarning })
    (fun t => t.res == 4 && t.pc == 4) = true := by decide

/-- S3, S7. -/
theorem test_postMsg : after (exec .postMsg { running common 0 0 with wake := .brownoutWarning })
      (fun t => t.wake == .messageReceived) = true
    ∧ after (exec .postMsg { running common 0 0 with wake := .lfClockStarted })
      (fun t => t.wake == .lfClockStarted && t.pc == 4 && !t.fault) = true := by decide

/-- S2, S5. -/
theorem test_postBrownout : after (exec .postBrownout (running common 0 0)) (fun t => t.wake == .brownoutWarning) = true
    ∧ after (exec .postBrownout { running common 0 0 with wake := .counterOverflowOrOther })
      (fun t => t.wake == .counterOverflowOrOther) = true := by decide

/-- R224, R222: the third micro-step requests the oscillator. U8: in a client list the command faults. -/
theorem test_lfStart : after (execTimes 3 .lfStart (State.resetWith common))
      (fun t => t.lfclk == .starting && t.intenLf && t.pc == 0) = true
    ∧ after (exec .lfStart (inClient 1 .expiry none (running common 0 0))) (fun t => t.faultCode == .illegalContext) = true :=
  by decide

/-- U5: the oscillator is requested at S1. -/
theorem test_hfStartDelay : after (exec .hfStartDelay (running common 0 0)) (fun t => t.hfclk == .starting) = true := by decide

/-- U4; U7: a starting oscillator passes the check. -/
theorem test_hfStartIrq : after (exec .hfStartIrq { running common 0 0 with hfclk := .running })
      (fun t => t.faultCode == .hfPrecondition && t.pc == 0) = true
    ∧ after (exec .hfStartIrq { running common 0 0 with hfclk := .starting }) (fun t => !t.fault) = true := by decide

/-- U6, `Release`, and R186: after the clock handler's exit the wait returns at once if latched, and holds if not (log 31). -/
theorem test_hfStartIrq_stale :
    let s (latch : WaitLatch) : State :=
      { running { other with waitLatch := latch } 0 0 with hfclk := .running, wake := .hfClockStarted, evLatch := true }
    after (exec .hfStartIrq (fgAt .hfStartIrq (.hfStartIrq (.loop (.wait .s1))) (s .latched))) (fun t => !t.fgWaiting) = true
    ∧ after (exec .hfStartIrq (fgAt .hfStartIrq (.hfStartIrq (.loop (.wait .s1))) (s .notLatched))) (fun t => t.fgWaiting) = true := by
  decide

/-- K5 in both builds; K8. -/
theorem test_clkStart : after (exec .clkStart (State.resetWith common))
      (fun t => t.faultCode == .lfNotStarted && !t.counterRunning) = true
    ∧ after (exec .clkStart { running other 9 0x55 with
        timers := { (running other 0 0).timers with p1 := ⟨true, false, 0⟩ } })
      (fun t => t.ovf == 0 && t.counter == 0 && t.timers.p1.inUse) = true := by decide

/-- K1, and K4 in `Debug`. -/
theorem test_clkNow : after (execTimes 3 .clkNow (running common 3 0x000010)) (fun t => t.res == 0x0000000003000010) = true
    ∧ after (execTimes 3 .clkNow { running common 0 0 with lastNow := 0xFFFFFFFFFFFFFF })
      (fun t => t.faultCode == .monotonicity) = true := by decide

/-- K9. -/
theorem test_clkReset0 : after (exec .clkReset0 { running common 7 0x123456 with lastNow := 0x07123456 })
    (fun t => t.ovf == 0 && t.lastNow == 0 && t.counter == 0x123456) = true := by decide

/-- K12, K13. -/
theorem test_clkIsRunning : after (exec .clkIsRunning (running common 0 0)) (fun t => t.res == 1) = true
    ∧ after (exec .clkIsRunning { State.resetWith common with lfclk := .running, res := 9 }) (fun t => t.res == 0) = true := by
  decide

/-- K14: the counter is seen to have changed from 5 to 6. -/
theorem test_clkWaitTick : after (exec .clkWaitTick (fgAt .clkWaitTick (.clkWaitTick 5) (running common 0 6)))
      (fun t => t.pc == 4 && t.fgFrame.isNone) = true
    ∧ after (exec .clkWaitTick (fgAt .clkWaitTick (.clkWaitTick 5) (running common 0 5))) (fun t => t.pc == 0) = true := by
  decide

/-- T1; T3: forced. -/
theorem test_tmrStart : after (execTimes 6 (.tmrStart 0 1 100) (running common 0 0x10))
      (fun t => t.chans.c0 == ⟨0x74, false, true, false⟩ && t.timers.p0 == ⟨true, false, 1⟩ && t.pc == 4) = true
    ∧ after (execTimes 6 (.tmrStart 1 2 0) (running common 0 0x10))
      (fun t => t.timers.p1 == ⟨true, true, 2⟩ && t.pendTimerSw && t.chans.c1.cc == 0x10) = true := by decide

/-- W3: a cancel of a timer never started changes nothing; E9: with two timers index 2 faults. -/
theorem test_tmrCancel : after (execTimes 4 (.tmrCancel 1) (running common 0 0))
      (fun t => t == { running common 0 0 with pc := 4 }) = true
    ∧ after (exec (.tmrCancel 2) (running common 0 0)) (fun t => t.faultCode == .badIndex) = true := by decide

/-- R148; E10's index 3 with three timers. -/
theorem test_tmrIsStarted : after (exec (.tmrIsStarted 0) { running common 0 0 with
        timers := { (running common 0 0).timers with p0 := ⟨true, false, 0⟩ } }) (fun t => t.res == 1) = true
    ∧ after (exec (.tmrIsStarted 3) (running other 0 0)) (fun t => t.faultCode == .badIndex) = true := by decide

/-- W4: expired is true while the client list runs. -/
theorem test_tmrIsExpired : after (exec (.tmrIsExpired 0) (inClient 1 .expiry none { running common 0 0 with
    timers := { (running common 0 0).timers with p0 := ⟨false, true, 1⟩ } })) (fun t => t.res == 1 && t.pc == 0) = true := by
  decide

/-- T13; T14 in `Release`. -/
theorem test_taskSched : after (execTimes 6 (.taskSched 3 5) (running common 0 0x100))
      (fun t => t.chans.c3 == ⟨0x105, false, true, false⟩ && t.taskInUse && t.taskId == 3 && !t.taskExpired) = true
    ∧ after (exec (.taskSched 0 7) { running other 0 0 with taskInUse := true, taskId := 2 })
      (fun t => t.pc == 4 && t.taskId == 2 && !t.fault) = true := by decide

/-- S9 in both builds. -/
theorem test_slpTimeout : after (execTimes 2 (.slpTimeout 2000) { running common 0 0 with sane := 1000, wake := .brownoutWarning })
      (fun t => t.wake == .cleared && t.faultCode == .saneTimeout) = true
    ∧ after (execTimes 2 (.slpTimeout 2000) { running other 0 0 with sane := 1000 })
      (fun t => t.fgFrame == some ⟨.slpTimeout 2000, .slpTimeout (.start 1000)⟩) = true := by decide

/-- R189: after 200 of 300 ticks the loop sleeps for the remaining 100. -/
theorem test_slpDuration : after
    (exec (.slpDuration 300) (fgAt (.slpDuration 300) (.slpDuration (.again 0 (.s3 0 200))) (running common 0 200)))
    (fun t => t.fgFrame == some ⟨.slpDuration 300, .slpDuration (.sleep 0 100 .clear)⟩) = true := by decide

/-- R189, R188: the check of SLP.DURATION is on what remains: 1 tick between the reads keeps the fault away (log 30). -/
theorem test_slpDuration_sane :
    after (execTimes 9 (.slpDuration 300) { running common 0 200 with sane := 299 }) (fun t => t.faultCode == .saneTimeout) = true
    ∧ after (execTimes 3 (.slpDuration 300) (fgAt (.slpDuration 300) (.slpDuration (.again 200 (.s3 0 201)))
        { running common 0 201 with sane := 299 })) (fun t => !t.fault) = true := by decide

/-- S18's test: done with WAKE = 1; S20's: Unknown waits again. -/
theorem test_slpUntil : after (exec (.slpUntil .messageReceived) (fgAt (.slpUntil .messageReceived) (.slpUntil .test)
        { running common 0 0 with wake := .messageReceived })) (fun t => t.pc == 4) = true
    ∧ after (exec (.slpUntil .unknown) (fgAt (.slpUntil .unknown) (.slpUntil .test) (running common 0 0)))
      (fun t => t.fgFrame == some ⟨.slpUntil .unknown, .slpUntil (.wait .s1)⟩) = true := by decide

/-- S22, S8. -/
theorem test_slpIsTimer : after (exec .slpIsTimer { running common 0 0 with wake := .counterOverflowOrOther, res := 9 })
      (fun t => t.res == 0) = true
    ∧ after (exec .slpIsTimer { running common 0 0 with wake := .sleepTimerExpired }) (fun t => t.res == 1) = true := by decide

/-- S21. -/
theorem test_slpSetSane : after (exec (.slpSetSane 1000) (running common 0 0))
    (fun t => t.sane == 1000 && t.memRead 0x40000020 4 == some 0x000003E8) = true := by decide

/-! ## Checks, interrupts, hardware, window -/

/-- E21: decode before context; F11: index before the command's own check. -/
theorem test_check_order : after (step (next (.isr .timer) (inClient 3 .expiry none (running common 0 0))))
      (fun t => t.faultCode == .illegalCommand) = true
    ∧ after (exec (.tmrStart 2 0 5) { running common 0 0 with
        timers := { (running common 0 0).timers with p0 := ⟨true, false, 0⟩ } }) (fun t => t.faultCode == .badIndex) = true := by
  decide

/-- K16: the overflow is counted and its clear requested; the settle step clears the event. -/
theorem test_overflow : after (step (next (.isr .timer) (handlerAt .ovfCount { running common 4 0 with evtOvf := true })))
      (fun t => t.ovf == 5 && t.evtOvf && t.evtOvfClrPend) = true
    ∧ after (step (next .settle { running common 5 0 with evtOvf := true, evtOvfClrPend := true }))
      (fun t => !t.evtOvf && !t.evtOvfClrPend) = true := by decide

/-- W1's wrap: COUNTER = 0 and EVT_OVF = 1; F13, F12: an entry clears the pend of its line only. -/
theorem test_tick_and_entry : after (step (next (.cnt ⟨false, false, false, false⟩) (running common 0 0xFFFFFF)))
      (fun t => t.counter == 0 && t.evtOvf) = true
    ∧ after (step (next (.isr .radio) { running common 0 0 with pendRadio := true, pendTimerSw := true }))
      (fun t => t.isrActive && !t.pendRadio && t.pendTimerSw && t.history == [.isrEntry .radio]) = true := by decide

/-- F1 to F8. -/
theorem test_window : (State.resetWith common).memRead 0x40000050 4 = some 0x0002020E
    ∧ (State.resetWith common).memRead 0x40000020 4 = some 0x00FFFFFF
    ∧ (State.resetWith common).memRead 0x40000000 4 = none ∧ (State.resetWith common).memRead 0x4000001D 1 = none
    ∧ (State.resetWith common).memRead 0x4000001E 4 = none ∧ (State.resetWith common).memRead 0x40000054 4 = none
    ∧ (List.range 4).map (windowByte 0x00000005) = [0x05, 0, 0, 0] := by decide

/-- R186, R243: a spurious wake ends the wait of the foreground, in a faulted block as `faultedWake` says (log 28). -/
theorem test_spurious_wake : after (step (next .envWake { running other 0 0 with fgWaiting := true }))
      (fun t => !t.fgWaiting) = true
    ∧ after (step (next .envWake { running other 0 0 with fgWaiting := true, fault := true, faultCode := .busError }))
      (fun t => t.fgWaiting) = true
    ∧ after (step (next .envWake { running { other with faultedWake := true } 0 0 with
          fgWaiting := true, fault := true, faultCode := .busError })) (fun t => !t.fgWaiting) = true := by decide

/-- F6, F9, F10. -/
theorem test_bus_write : after (step (next (.hostWrite 0x4000001C 4 2) (State.resetWith common)))
      (fun t => t.faultCode == .busError && t.wake == .cleared) = true
    ∧ after (step (next (.hostWrite 0x40000000 4 0x20000000)
        { State.resetWith common with fault := true, faultCode := .doubleStart }))
      (fun t => t.faultCode == .doubleStart && t.issued == [0x20000000] && t.res == 0) = true := by decide

/-- W5: the rows 0 to 7 of the columns 2, 3, 1, 4, 5, 6; a cell is the new code, or 10 and the fault code. -/
theorem test_arbitration :
    let cell (old : WakeReason) (new : Post) : Nat :=
      match (arbWrite new { State.resetWith common with wake := old } : Micro Empty Unit) with
      | .ret _ t => t.wake.code.toNat
      | .fault c _ => 10 + c.code.toNat
      | .goto _ _ => 99
    ([WakeReason.cleared, .messageReceived, .sleepTimerExpired, .counterOverflowOrOther, .brownoutWarning, .hfClockStarted,
      .lfClockStarted, .unknown].map fun old =>
        [Post.sleepTimerExpired, .counterOverflowOrOther, .messageReceived, .brownoutWarning, .hfClockStarted,
          .lfClockStarted].map (cell old))
      = [[2, 3, 1, 4, 5, 6], [1, 1, 1, 1, 5, 6], [16, 2, 1, 2, 5, 6], [2, 3, 1, 3, 5, 6], [2, 4, 1, 4, 5, 6],
          [17, 17, 5, 5, 5, 6], [17, 17, 6, 6, 5, 6], [2, 7, 1, 7, 5, 6]] := by decide

/-- R22: after the last word of a list of 2^30 words `PC` is 4 × 2^30, not 0, and the list is at its end. -/
theorem test_pc_never_wraps : after (exec .clkReset0 { running common 0 0 with pc := 0xFFFFFFFC })
      (fun t => t.pc.toNat == 4 * 2 ^ 30) = true
    ∧ ∀ w : Word, fetch (List.replicate (2 ^ 30) w) 0x100000000 = .atEnd := by
  refine ⟨by decide, fun w => ?_⟩
  rw [fetch, List.length_replicate, if_neg (by decide), wordAt, List.getElem?_replicate, if_neg (by decide)]

/-- 00_scope.md section 4, R60: the lists of `common` by their callback id, tag and task id. -/
theorem test_lists : listWords common (.client 1 .expiry) = [0x90000000] ∧ listWords common (.client 2 .other) = [0xB0000032]
    ∧ listWords common (.client 3 .expiry) = [0x07000000] ∧ listWords common (.task 2) = [0x20000000]
    ∧ listWords common (.task 3) = [] := by decide

/-- K19, K20. -/
theorem test_duration_arithmetic : clampedDiff 7 5 = 2 ∧ clampedDiff 5 7 = 0 ∧ clampedDiff 5 5 = 0
    ∧ toTicks24 0x1000000 = 0xFFFFFF ∧ toTicks24 300 = 300 := by decide

/-! ## Witnesses: concrete states and operands that meet a statement's hypotheses

Each clause of a conjunction meets the hypotheses of one clause of the statement; boundary values are taken where a clause has
a range. -/

/-- `Debug`, two timers; `Release`, three timers. -/
def sD : State := running common 0 0

def sR : State := running other 0 0

/-- Timer 0 is in use. -/
def busy0 (s : State) : State := { s with timers := { s.timers with p0 := ⟨true, false, 0⟩ } }

/-- Timer 0 is enabled. -/
def enabled (s : State) : State := { s with chans := { s.chans with c0.inten := true } }

/-- A time query that returns 0 now would go backward. -/
def ahead (s : State) : State := { s with lastNow := 1 }

/-- Command `i` of a client list stands at `l`. -/
def listAt (i : Instr) (l : Label) (s : State) : State := inClient 1 .expiry (some { cmd := i, label := l }) s

/-- A client list is between two commands. -/
def listIdle (s : State) : State := inClient 1 .expiry none s

theorem witness_EncodeOfDecode : decode 0x66FFFFFF = .ok (.tmrStart 1 2 0xFFFFFF) := rfl

theorem witness_DecodeSelectsExactlyOneRow : decode 0xD0000007 = .ok (.slpUntil .unknown)
    ∧ opcodeMap[18] ∈ opcodeMap ∧ opcodeMap[18].selects 0xD0000007 = true := ⟨rfl, by decide, by decide⟩

theorem witness_IllegalWordRaisesFault_words : fieldOp 0x07000000 = 0 ∧ 7 ≤ (fieldSub 0x07000000).toNat
    ∧ (fieldSub 0x0F000000).toNat = 15
    ∧ ([0x01000001, 0x10000001, 0x79000000, 0xA4000005, 0xB1000032, 0xD0000008, 0xE0000001].map breaksReserved)
      = [true, true, true, true, true, true, true] := by decide

theorem witness_IllegalWordRaisesFault_fg : (next .fg (programmed 0 sD)).nextMove = .fg
    ∧ (next .fg (programmed 0 sD)).fgMayStep = true ∧ (next .fg (programmed 0 sD)).fgFrame = none
    ∧ fetch (next .fg (programmed 0 sD)).fgWords 0 = .word 0 := by decide

theorem witness_IllegalWordRaisesFault_isr :
    ∃ f l rest, (next (.isr .clock) (inClient 3 .expiry none sD)).isrFrame = some f ∧ f.stack = l :: rest ∧ l.frame = none
      ∧ fetch (listWords common l.list) l.pc = .word 0x07000000 ∧ fieldOp 0x07000000 = 0
      ∧ 7 ≤ (fieldSub 0x07000000).toNat :=
  ⟨_, _, _, rfl, rfl, rfl, by decide, by decide, by decide⟩

theorem witness_StepRunsTheDecodedCommand_fg :
    (next .fg (fgAt .clkNow (.clkNow .s1) sD)).fgMayStep = true ∧ (next .fg (programmed 0x20000000 sD)).fgMayStep = true
    ∧ ([0x20000000] ++ (next .fg (programmed 0x20000000 sD)).issued).length ≤ 2 ^ 30
    ∧ ([0x20000000] ++ (next .fg (programmed 0x20000000 sD)).issued)[0]? = some 0x20000000 ∧ decode 0x20000000 = .ok .clkNow :=
  ⟨by decide, by decide, by decide, by decide, rfl⟩

theorem witness_StepRunsTheDecodedCommand_isr :
    (∃ f l rest c, (listAt .clkNow (.clkNow .s1) sD).isrFrame = some f ∧ f.stack = l :: rest ∧ l.frame = some c)
    ∧ ∃ f l rest, (listIdle sD).isrFrame = some f ∧ f.stack = l :: rest ∧ l.frame = none
      ∧ (listWords common l.list).length ≤ 2 ^ 30 ∧ (listWords common l.list)[l.pc.toNat / 4]? = some 0x90000000
      ∧ decode 0x90000000 = .ok (.tmrIsExpired 0) :=
  ⟨⟨_, _, _, _, rfl, rfl, rfl⟩, ⟨_, _, _, rfl, rfl, rfl, by decide, by decide, rfl⟩⟩

theorem witness_ForegroundIsHeldBack : (next .fg { sD with fault := true }).fault = true
    ∧ (next .fg (handlerAt .exit sD)).isrActive = true ∧ (next .fg { sD with pendRadio := true }).irqReq = true
    ∧ (next .fg { sD with fgWaiting := true }).fgWaiting = true
    ∧ (next .fg { programmed 0 sD with pc := 4 }).fgFrame = none ∧ (next .fg { programmed 0 sD with pc := 4 }).fgWords.length = 1
    ∧ (next .fg sD).nextMove = .fg := by decide

theorem witness_FaultedBlockStaysStopped : (next (.isr .power) { sD with fault := true }).fault = true
    ∧ (next (.isr .power) { sD with fault := true }).nextMove = .isr .power
    ∧ completes (step (next (.cnt ⟨true, true, true, true⟩) { sD with fault := true })) = true := by decide

theorem witness_MicroStepHoldsCompletesOrFaults_fg : sD.isrActive = false ∧ completes (exec .clkNow sD) = true
    ∧ completes (exec .clkStart sD) = true ∧ completes (exec (.tmrCancel 3) sD) = true := by decide

theorem witness_MicroStepHoldsCompletesOrFaults_isr : (listIdle sD).isrActive = true
    ∧ (∃ g l rest, (listIdle sD).isrFrame = some g ∧ g.stack = l :: rest) ∧ completes (exec .clkNow (listIdle sD)) = true
    ∧ completes (exec .lfStart (listIdle sD)) = true :=
  ⟨by decide, ⟨_, _, _, rfl, rfl⟩, by decide, by decide⟩

theorem witness_ClkStartRestartsTheClock :
    ((State.resetWith common).cfg.build = .debug ∧ (State.resetWith common).lfclk = .stopped)
    ∧ (sD.lfclk ≠ .stopped ∧ sD.poolInit = true) ∧ (sR.cfg.build = .release ∧ sR.poolInit = true)
    ∧ ((State.resetWith other).cfg.build = .release ∧ (State.resetWith other).poolInit = false) := by decide

theorem witness_ClkNowReadsTheTimeTwice : sD.frame = none ∧ (fgAt .clkNow (.clkNow .s1) sD).at .clkNow (.clkNow .s1) = true
    ∧ (listAt .clkNow (.clkNow (.s2 0)) sD).at .clkNow (.clkNow (.s2 0)) = true
    ∧ ((fgAt .clkNow (.clkNow (.s3 1 0)) sD).at .clkNow (.clkNow (.s3 1 0)) = true ∧ (1 : Word) ≠ sD.ovf)
    ∧ ((fgAt .clkNow (.clkNow (.s3 0 0)) (ahead sD)).at .clkNow (.clkNow (.s3 0 0)) = true ∧ time 0 0 < (ahead sD).lastNow)
    ∧ ((ahead sD).cfg.build = .debug ∧ (ahead sD).lastNow ≤ time 0 1)
    ∧ sD.atCommandStart = true ∧ (listIdle sR).atCommandStart = true ∧ sD.lastNow ≤ time sD.ovf sD.counter := by decide

theorem witness_ClkReset0AndClkIsRunning : (sD.lfclk = .running ∧ sD.counterRunning = true)
    ∧ ({ sD with lfclk := .starting } : State).lfclk ≠ .running ∧ (State.resetWith common).counterRunning = false := by decide

theorem witness_ClkWaitTickSpins : sD.frame = none
    ∧ (fgAt .clkWaitTick (.clkWaitTick 0) sD).at .clkWaitTick (.clkWaitTick 0) = true ∧ sD.counter = 0
    ∧ (listAt .clkWaitTick (.clkWaitTick 0xFFFFFF) sD).at .clkWaitTick (.clkWaitTick 0xFFFFFF) = true
    ∧ sD.counter ≠ 0xFFFFFF := by decide

theorem witness_ArmMicroSteps : ((1 : Word) ≠ sD.ovf)
    ∧ (sD.ovf = 0 ∧ (ahead sD).cfg.build = .debug ∧ time 0 0 < (ahead sD).lastNow) ∧ sR.cfg.build = .release
    ∧ ((sD.counter - 0).toNat + sD.cfg.minTimeout.toNat ≤ (2 : Ticks).toNat)
    ∧ ((1 : Ticks).toNat < (sD.counter - 0).toNat + sD.cfg.minTimeout.toNat) ∧ PoolIx.t2.chan = .ch2 := by decide

theorem witness_TmrStartTakesAndArmsItsTimer : poolIx? sD.cfg.nTimers 0 = some .t0 ∧ poolIx? sD.cfg.nTimers 1 = some .t1
    ∧ poolIx? sR.cfg.nTimers 2 = some .t2 ∧ poolIx? sR.cfg.nTimers 3 = none
    ∧ ((busy0 sD).frame = none ∧ ((busy0 sD).timer .t0).inUse = true ∧ (busy0 sD).cfg.build = .debug)
    ∧ (((busy0 sR).timer .t0).inUse = true ∧ (busy0 sR).cfg.build = .release) ∧ (sD.timer .t0).inUse = false
    ∧ (fgAt (.tmrStart 0 1 2) (.tmrStart (.commit 0)) sD).at (.tmrStart 0 1 2) (.tmrStart (.commit 0)) = true
    ∧ (sD.counter - 0).toNat + sD.cfg.minTimeout.toNat ≤ (2 : Ticks).toNat := by decide

theorem witness_TmrStartUninterrupted : poolIx? (listIdle sR).cfg.nTimers 2 = some .t2 ∧ (listIdle sR).atCommandStart = true
    ∧ ((listIdle sR).timer .t2).inUse = false ∧ (listIdle sR).cfg.build = .release
    ∧ sD.atCommandStart = true ∧ sD.lastNow ≤ time sD.ovf sD.counter := by decide

theorem witness_TmrCancelStopsItsTimer : poolIx? sD.cfg.nTimers 1 = some .t1 ∧ poolIx? sD.cfg.nTimers 2 = none ∧ sD.frame = none ∧ sD.atCommandStart = true
    ∧ (fgAt (.tmrCancel 1) (.tmrCancel .s1) sD).at (.tmrCancel 1) (.tmrCancel .s1) = true
    ∧ (fgAt (.tmrCancel 1) (.tmrCancel .s2) sD).at (.tmrCancel 1) (.tmrCancel .s2) = true
    ∧ (listAt (.tmrCancel 1) (.tmrCancel .s3) sD).at (.tmrCancel 1) (.tmrCancel .s3) = true := by decide

theorem witness_PoolQueriesReadTheTimer : poolIx? sD.cfg.nTimers 1 = some .t1 ∧ poolIx? sD.cfg.nTimers 2 = none
    ∧ poolIx? sR.cfg.nTimers 2 = some .t2 ∧ poolIx? sR.cfg.nTimers 3 = none := by decide

theorem witness_BadIndexRaisesFault : (sD.cfg.nTimers = .two ∧ 2 ≤ (2 : BitVec 2).toNat)
    ∧ (sR.cfg.nTimers = .three ∧ (3 : BitVec 2).toNat = 3) := by decide

theorem witness_TaskSchedTakesAndArmsTheTaskTimer :
    (({ sD with taskInUse := true } : State).frame = none ∧ sD.cfg.build = .debug ∧ sR.cfg.build = .release)
    ∧ (sD.frame = none ∧ sD.taskInUse = false ∧ sD.atCommandStart = true ∧ sD.lastNow ≤ time sD.ovf sD.counter)
    ∧ (listAt (.taskSched 3 2) (.taskSched (.commit 0)) sD).at (.taskSched 3 2) (.taskSched (.commit 0)) = true
    ∧ (sD.counter - 0).toNat + sD.cfg.minTimeout.toNat ≤ (2 : Ticks).toNat := by decide

/-- The arm takes as many ticks as it may for a timeout of 16 with a wrap in it. -/
theorem witness_NoArmedTimerIsLost : 1 ≤ common.minTimeout.toNat ∧ common.cmpGuard.toNat ≤ common.minTimeout.toNat
    ∧ 7 + 7 + common.minTimeout.toNat < 2 ^ 24
    ∧ forcedExpiry common 0xFFFFF8 (0xFFFFF8 + BitVec.ofNat 24 (7 + 7)) 16 = false := by decide

theorem witness_PostCommandsWriteTheWakeReason : ({ sD with wake := .lfClockStarted } : State).wake = .lfClockStarted
    ∧ sD.wake ≠ .messageReceived ∧ sD.wake ≠ .hfClockStarted ∧ sD.wake ≠ .lfClockStarted ∧ sD.wake = .cleared
    ∧ ({ sD with wake := .messageReceived } : State).wake ≠ .cleared := by decide

theorem witness_WaitPrimitive : (sD.cfg.waitLatch = .latched ∧ ({ sD with evLatch := true } : State).evLatch = true)
    ∧ sD.evLatch = false ∧ sR.cfg.waitLatch = .notLatched ∧ sD.fgWaiting = false
    ∧ ((next .fg { sD with fgWaiting := true }).nextMove = .fg ∧ (next .fg { sD with fgWaiting := true }).fgWaiting = true)
    ∧ (next .envWake sR).nextMove = .envWake ∧ sR.cfg.spuriousWake = true
    ∧ ({ sR with fgWaiting := true } : State).fgWaiting = true ∧ sR.fault = false
    ∧ ({ sR with fault := true, cfg := { other with faultedWake := true } } : State).cfg.faultedWake = true := by decide

theorem witness_SlpTimeoutMicroSteps : (sD.isrActive = false ∧ sD.frame = none) ∧ (listIdle sD).isrActive = true
    ∧ (∀ l ∈ [SleepLabel.sane, .start 5, .arm 5 (.commit 0), .wait .s2, .stop .s1, .stop .s2, .stop .s3],
        (fgAt (.slpTimeout 5) (.slpTimeout l) sD).at (.slpTimeout 5) (.slpTimeout l) = true)
    ∧ (5 : Ticks).toNat ≤ ({ sD with sane := 5 } : State).sane.toNat
    ∧ ({ sD with sane := 4 } : State).sane.toNat < (5 : Ticks).toNat
    ∧ (busy0 sD).timers.p0.inUse = true ∧ sD.timers.p0.inUse = false ∧ sD.cfg.build = .debug ∧ sR.cfg.build = .release := by
  decide

theorem witness_SlpTimeoutUninterrupted : sD.isrActive = false ∧ sD.fgFrame = none
    ∧ (0xFFFFFF : Ticks).toNat ≤ ({ sD with evLatch := true } : State).sane.toNat ∧ sD.timers.p0.inUse = false
    ∧ sD.cfg.waitLatch = .latched ∧ ({ sD with evLatch := true } : State).evLatch = true
    ∧ sD.lastNow ≤ time sD.ovf sD.counter := by decide

theorem witness_SlpDurationLoops : (sD.isrActive = false ∧ sD.frame = none) ∧ (listIdle sD).isrActive = true
    ∧ (∀ l ∈ [DurationLabel.begin .s1, .again 0 (.s3 0 0), .sleep 0 5 .clear, .test 0],
        (fgAt (.slpDuration 5) (.slpDuration l) sD).at (.slpDuration 5) (.slpDuration l) = true)
    ∧ ({ sD with wake := .sleepTimerExpired } : State).wake = .sleepTimerExpired ∧ sD.wake ≠ .sleepTimerExpired
    ∧ ({ sD with sane := 4 } : State).fgFrame = none ∧ sD.cfg.build = .debug ∧ sD.lastNow ≤ time sD.ovf sD.counter
    ∧ ({ sD with sane := 4 } : State).sane.toNat < (5 : Ticks).toNat := by decide

theorem witness_SlpUntilWaitsForTheReason : (sD.isrActive = false ∧ sD.frame = none) ∧ (listIdle sD).isrActive = true
    ∧ (∀ l ∈ [UntilLabel.wait .s1, .wait .s2, .test],
        (fgAt (.slpUntil .cleared) (.slpUntil l) sD).at (.slpUntil .cleared) (.slpUntil l) = true)
    ∧ sD.wake = .cleared ∧ sD.wake ≠ .unknown ∧ sD.cfg.waitLatch = .latched ∧ sD.fgFrame = none
    ∧ ({ sD with evLatch := true } : State).evLatch = true := by decide

theorem witness_WakeQueriesAndCeiling : ({ sD with wake := .sleepTimerExpired } : State).wake = .sleepTimerExpired
    ∧ sD.wake ≠ .sleepTimerExpired := by decide

theorem witness_LfStartWaitsForTheOscillator : (sD.isrActive = false ∧ sD.frame = none) ∧ (listIdle sD).isrActive = true
    ∧ (∀ l ∈ [LfLabel.enable, .request, .loop (.wait .s1), .loop (.wait .s2), .loop .test, .disable],
        (fgAt .lfStart (.lfStart l) sD).at .lfStart (.lfStart l) = true)
    ∧ ({ sD with wake := .lfClockStarted } : State).wake = .lfClockStarted ∧ sD.wake ≠ .lfClockStarted := by decide

theorem witness_HfStartDelaySleeps : (sD.isrActive = false ∧ sD.frame = none) ∧ (listIdle sD).isrActive = true
    ∧ (∀ l ∈ [DurationLabel.begin .s1, .again 0 (.s3 0 0), .sleep 0 5 .clear, .test 0],
        (fgAt .hfStartDelay (.hfStartDelay l) sD).at .hfStartDelay (.hfStartDelay l) = true)
    ∧ ({ sD with wake := .sleepTimerExpired } : State).wake = .sleepTimerExpired ∧ sD.wake ≠ .sleepTimerExpired
    ∧ ({ sD with sane := 4 } : State).fgFrame = none ∧ sD.cfg.build = .debug ∧ sD.lastNow ≤ time sD.ovf sD.counter
    ∧ ({ sD with sane := 4 } : State).sane.toNat < sD.cfg.hfDelay.toNat := by decide

theorem witness_HfStartIrqWaitsForTheOscillator : (listIdle sD).isrActive = true ∧ (sD.isrActive = false ∧ sD.frame = none ∧ sD.cfg.build = .debug)
    ∧ ({ sD with hfclk := .running } : State).hfclk = .running ∧ (sD.hfclk ≠ .running ∧ sD.evtHfStarted = false)
    ∧ sR.cfg.build = .release
    ∧ (∀ l ∈ [HfIrqLabel.clear, .enable, .request, .loop (.wait .s1), .loop (.wait .s2), .loop .test, .disable],
        (fgAt .hfStartIrq (.hfStartIrq l) sD).at .hfStartIrq (.hfStartIrq l) = true)
    ∧ ({ sD with wake := .hfClockStarted } : State).wake = .hfClockStarted ∧ sD.wake ≠ .hfClockStarted
    ∧ ({ sR with hfclk := .running, evtHfStarted := true } : State).evtHfStarted = true := by decide

theorem witness_WaitingCommandsAreForegroundOnly : (waitsFor .lfStart = true ∧ (listIdle sD).isrActive = true)
    ∧ (waitsFor .clkNow = false ∧ sD.faultCode ≠ .illegalContext ∧ completes (exec .clkNow (listIdle sD)) = true)
    ∧ (sD.isrActive = false ∧ completes (exec .lfStart sD) = true) := by decide

theorem witness_RaisingAFault : sD.fault = false ∧ ({ sD with fault := true } : State).fault = true
    ∧ after (step (next .fg (programmed 0 sD))) (fun t => t.fault) = true
    ∧ after (step (next (.isr .timer) (handlerAt (.expireDispatch .t0 0 []) { sD with wake := .lfClockStarted })))
        (fun t => t.fault) = true
    ∧ after (step (next (.hostRead 0 4) sD)) (fun t => t.fault) = true
    ∧ completes (step (next .envWake { sR with fault := true, fgWaiting := true })) = true := by decide

theorem witness_InterruptRequests : sD.requests .timer = false ∧ ({ sD with evtOvf := true } : State).requests .timer = true
    ∧ ({ sD with pendPower := true } : State).irqReq = true := by decide

/-- The next step is the handler's micro-step at `l`, and `q` holds of the state. -/
def meets (l : HandlerLabel) (s : State) (q : State → Bool) : Prop :=
  s.handlerNext { line := .timer, label := l, handled := [], stack := [] } l ∧ q s = true

theorem meets_handlerAt {l : HandlerLabel} {s : State} {q : State → Bool} (h : s.fault = false)
    (hq : q (next (.isr .timer) (handlerAt l s)) = true) : meets l (next (.isr .timer) (handlerAt l s)) q :=
  ⟨⟨⟨.timer, rfl⟩, h, rfl, rfl, rfl, rfl⟩, hq⟩

/-- Timer 0 is due and the compare events of channels 0 and 3 are set; the task is due. -/
def dueS : State :=
  { sD with
    timers := { sD.timers with p0 := ⟨true, true, 1⟩ }
    chans := { sD.chans with c0 := ⟨0, true, true, false⟩, c3 := ⟨0, true, true, false⟩ }
    taskExpired := true, taskInUse := true, taskId := 3 }

theorem witness_InterruptEntryAndExit : (next (.isr .radio) { sD with pendRadio := true }).requests .radio = true
    ∧ (next (.isr .radio) { sD with pendRadio := true }).fault = false
    ∧ (next (.isr .radio) { sD with pendRadio := true }).isrActive = false
    ∧ (next (.isr .radio) { sD with pendRadio := true }).nextMove = .isr .radio ∧ ∃ s, meets .exit s fun _ => true :=
  ⟨by decide, by decide, by decide, by decide, ⟨_, meets_handlerAt (s := sD) rfl rfl⟩⟩

theorem witness_NoNestingAndForegroundFrozen : (next (.isr .radio) (handlerAt .exit sD)).isrActive = true
    ∧ after (step (next (.isr .radio) (handlerAt .exit sD))) (fun t => !t.isrActive) = true
    ∧ ∃ s, meets .exit s fun _ => true :=
  ⟨by decide, by decide, ⟨_, meets_handlerAt (s := sD) rfl rfl⟩⟩

theorem witness_OverflowPart : (∃ s, meets .ovfCount s fun s => s.evtOvf && !s.evtOvfClrPend)
    ∧ (∃ s, meets .ovfCount s fun s => !s.evtOvf) ∧ (∃ s, meets .ovfSpin s fun s => s.evtOvfClrPend)
    ∧ (∃ s, meets .ovfSpin s fun s => !s.evtOvfClrPend && s.cfg.nTimers == .two)
    ∧ ∃ s, meets .ovfSpin s fun s => !s.evtOvfClrPend && s.cfg.nTimers == .three :=
  ⟨⟨_, meets_handlerAt (s := { sD with evtOvf := true }) rfl rfl⟩, ⟨_, meets_handlerAt (s := sD) rfl rfl⟩,
    ⟨_, meets_handlerAt (s := { sD with evtOvf := true, evtOvfClrPend := true }) rfl rfl⟩,
    ⟨_, meets_handlerAt (s := sD) rfl rfl⟩, ⟨_, meets_handlerAt (s := sR) rfl rfl⟩⟩

theorem witness_PoolScanAndHandle : (∃ s, meets (.poolScan [.t0, .t1]) s fun s => (s.chan .ch0).evt)
    ∧ (∃ s, meets (.poolScan [.t1]) s fun s => !(s.chan .ch1).evt) ∧ (∃ s, meets .poolCollect s fun _ => true)
    ∧ (∃ s, meets (.poolHandle [.t0]) s fun s => (s.timer .t0).expired && (s.timer .t0).inUse)
    ∧ ∃ s, meets (.poolHandle [.t1]) s fun s => !(s.timer .t1).expired :=
  ⟨⟨_, meets_handlerAt (s := dueS) rfl rfl⟩, ⟨_, meets_handlerAt (s := dueS) rfl rfl⟩,
    ⟨_, meets_handlerAt (s := dueS) rfl rfl⟩, ⟨_, meets_handlerAt (s := dueS) rfl rfl⟩,
    ⟨_, meets_handlerAt (s := dueS) rfl rfl⟩⟩

theorem witness_ExpirationStopsTheTimer (l : StopLabel) : ∃ s, meets (.expireStop .t0 1 l []) s fun _ => true :=
  ⟨_, meets_handlerAt (s := dueS) rfl rfl⟩

theorem witness_DispatchRunsTheCallback : ((1 : BitVec 2) ≠ 0)
    ∧ (∃ s, meets (.expireDispatch .t0 1 []) s fun _ => true)
    ∧ (∃ s, meets .secondary s fun s => decide (PoolIx.t0 ∉ ([] : List PoolIx)) && s.timers.p0.inUse)
    ∧ ∃ s, meets .secondary s fun s => !s.timers.p0.inUse :=
  ⟨by decide, ⟨_, meets_handlerAt (s := dueS) rfl rfl⟩, ⟨_, meets_handlerAt (s := dueS) rfl rfl⟩,
    ⟨_, meets_handlerAt (s := sD) rfl rfl⟩⟩

theorem witness_TaskPart : (∃ s, meets .taskScan s fun s => (s.chan .ch3).evt)
    ∧ (∃ s, meets .taskScan s fun s => !(s.chan .ch3).evt)
    ∧ (∃ s, meets .taskHandle s fun s => s.taskExpired && s.taskInUse)
    ∧ (∃ s, meets .taskHandle s fun s => !s.taskExpired) ∧ ∃ s, meets .taskDone s fun _ => true :=
  ⟨⟨_, meets_handlerAt (s := dueS) rfl rfl⟩, ⟨_, meets_handlerAt (s := sD) rfl rfl⟩,
    ⟨_, meets_handlerAt (s := dueS) rfl rfl⟩, ⟨_, meets_handlerAt (s := sD) rfl rfl⟩,
    ⟨_, meets_handlerAt (s := dueS) rfl rfl⟩⟩

theorem witness_ClockRadioAndPowerHandlers : ∀ l ∈ [HandlerLabel.clockLf, .clockLfPost true, .clockLfPost false, .clockHf,
      .clockHfPost true, .clockHfPost false, .radioPost, .powerPost], ∃ s, meets l s fun _ => true :=
  fun _ _ => ⟨_, meets_handlerAt (s := sD) rfl rfl⟩

theorem witness_ListReturnsToItsHandler :
    ∃ f l rest, (next (.isr .timer) (inClient 1 .other none sD)).isrFrame = some f ∧ f.stack = l :: rest ∧ l.frame = none
      ∧ (listWords common l.list).length ≤ 2 ^ 30 ∧ (listWords common l.list).length ≤ l.pc.toNat / 4 :=
  ⟨_, _, _, rfl, rfl, rfl, by decide, by decide⟩

theorem witness_CounterTick : ((State.resetWith common).counterRunning = false
      ∧ ({ sD with lfclk := .stopped } : State).lfclk = .stopped)
    ∧ (sD.counterRunning = true ∧ sD.lfclk ≠ .stopped)
    ∧ ((sD.chan .ch0).cc ≠ sD.counter + 1 ∧ (running common 0 0xFFFFFF).counter + 1 = 0
      ∧ ((running common 0 0xFFFFFF).chan .ch0).cc = 0 ∧ ((running common 0 0xFFFFFF).chan .ch0).uncertain = false)
    ∧ ({ (running common 0 0xFFFFFF) with chans := { sD.chans with c1 := ⟨0, false, true, true⟩ } } : State).chans.c1.uncertain
        = true := by decide

theorem witness_SettleOscillatorsAndEvents : (next .settle sD).nextMove = .settle ∧ (next (.osc .lf) sD).nextMove = .osc .lf
    ∧ (next (.osc .hf) sD).nextMove = .osc .hf ∧ (next .envRadio sD).nextMove = .envRadio
    ∧ (next .envPower sD).nextMove = .envPower := by decide

/-- The offsets 0, 2, 4, 0x50, 0x54 and one below the window. -/
theorem witness_BusAccesses : ((0x40000000 : Word) - sD.cfg.base).toNat = 0 ∧ ((0x40000002 : Word) - sD.cfg.base).toNat % 4 ≠ 0
    ∧ ((0x40000004 : Word) - sD.cfg.base).toNat = 4 ∧ ((0x40000050 : Word) - sD.cfg.base).toNat = 0x50
    ∧ ((0x40000054 : Word) - sD.cfg.base).toNat = 0x54 ∧ 0x54 ≤ ((0x3FFFFFFC : Word) - sD.cfg.base).toNat
    ∧ (next (.hostRead 0x40000050 4) sD).nextMove = .hostRead 0x40000050 4
    ∧ (next (.hostWrite 0x40000004 4 1) sD).nextMove = .hostWrite 0x40000004 4 1 := by decide

theorem witness_CmdWriteIssuesACommand : (next (.hostWrite sD.cfg.base 4 7) sD).nextMove = .hostWrite sD.cfg.base 4 7
    ∧ sD.fgFrame = none ∧ ({ sD with fault := true } : State).fault = true
    ∧ (fgAt .clkNow (.clkNow .s1) sD).fgFrame = some ⟨.clkNow, .clkNow .s1⟩ ∧ sD.cmdHeld = none ∧ sD.fault = false
    ∧ ({ fgAt .clkNow (.clkNow .s1) sD with cmdHeld := some 3 } : State).cmdHeld = some 3 := by decide

theorem witness_PackedRegisters : (0x44 : Word) ∈ [(0x04 : Word), 0x24, 0x28, 0x2C, 0x40, 0x44] ∧ PoolIx.t1 ∈ poolIndices sD.cfg.nTimers ∧ PoolIx.t2 ∈ poolIndices sR.cfg.nTimers
    ∧ sD.cfg.nTimers = .two ∧ sD.isrActive = false ∧ (handlerAt .exit sD).isrActive = true
    ∧ (handlerAt .exit sD).isrFrame = some ⟨.timer, .exit, [], []⟩ := by decide

theorem witness_PlainRegisters : (0x4C : Word) ∈
    [(0x08 : Word), 0x0C, 0x10, 0x14, 0x18, 0x1C, 0x30, 0x34, 0x38, 0x3C, 0x48, 0x4C] := by decide

/-- The foreground is in its wait, with its word and the held write of the host. -/
def waiting : State :=
  { fgAt (.slpUntil .messageReceived) (.slpUntil (.wait .s2)) (programmed 0xD0000001 sD) with
    fgWaiting := true, cmdHeld := some 0x02000000 }

theorem witness_EveryStepKeepsTheInvariant : (next .envRadio waiting).Inv ∧ completes (step (next .envRadio waiting)) = true
    ∧ (next (.isr .timer) (listIdle sD)).Inv ∧ completes (step (next (.isr .timer) (listIdle sD))) = true := by
  unfold State.Inv; decide

theorem witness_WritersOfTheSharedRegisters :
    after (step (next .fg (programmed 0x40000000 sD))) (fun t => t.res != sD.res) = true
    ∧ after (step (next (.isr .timer) (handlerAt .ovfCount { sD with evtOvf := true }))) (fun t => t.ovf != sD.ovf) = true
    ∧ after (step (next .fg (programmed 0xF0000005 sD))) (fun t => t.sane != sD.sane) = true
    ∧ after (step (next (.cnt ⟨false, false, false, false⟩) sD)) (fun t => t.counter != sD.counter) = true
    ∧ after (step (next .fg (programmed 0x30000000 (ahead sD)))) (fun t => t.lastNow != 1) = true
    ∧ after (step (next .fg (fgAt (.tmrStart 0 1 9) (.tmrStart (.commit 0)) sD))) (fun t => t.chans.c0.inten) = true
    ∧ after (step (next .fg (programmed 0x61000009 sD))) (fun t => t.timers.p0.cbId == 1) = true
    ∧ (sD.chan .ch0).inten = false ∧ (sD.timer .t0).cbId = 0 ∧ sD.enabledInUse = true
    ∧ (next .fg (fgAt (.tmrStart 0 1 9) (.tmrStart (.commit 0)) (busy0 sD))).enabledInUse = true
    ∧ (next .fg (fgAt (.tmrStart 0 1 9) (.tmrStart (.commit 0)) (busy0 sD))).overtaken = false
    ∧ after (step (next .fg (fgAt (.tmrStart 0 1 9) (.tmrStart (.commit 0)) (busy0 sD)))) (fun t => t.chans.c0.inten) = true := by
  decide

theorem witness_NothingPermanentIsUndone : sD.counterRunning = true ∧ sD.intenOvf = true ∧ sD.poolInit = true
    ∧ sD.lfclk = .running ∧ ({ sD with hfclk := .starting } : State).hfclk = .starting
    ∧ completes (step (next (.osc .hf) { sD with hfclk := .starting })) = true := by decide

theorem witness_ProgramCounterMovesByFour : after (step (next .fg (programmed 0x10000000 sD))) (fun t => t.pc == 4) = true
    ∧ after (step (next .fg (programmed 0x20000000 sD))) (fun t => t.pc == 0 && t.fgFrame.isSome) = true
    ∧ (next .fg (programmed 0x10000000 sD)).fgWords.length ≤ 2 ^ 30 := by decide

theorem witness_ProgramCounterMovesByFour_inv : (next .fg (programmed 0x10000000 sD)).Inv ∧ (next (.isr .timer) (listIdle sD)).Inv
    ∧ (listIdle sD).isrFrame = some ⟨.timer, .taskScan, [], [⟨.client 1 .expiry, 0, none⟩]⟩
    ∧ after (step (next (.isr .timer) (listIdle sD)))
        (fun t => t.isrFrame == some ⟨.timer, .taskScan, [], [⟨.client 1 .expiry, 4, none⟩]⟩) = true
    ∧ (listWords common (.client 1 .expiry)).length ≤ 2 ^ 30 := by
  unfold State.Inv; decide

theorem witness_CommandFrames : completes (exec (.tmrStart 1 2 5) sD) = true ∧ completes (exec (.tmrCancel 1) sD) = true
    ∧ poolIx? sD.cfg.nTimers 1 = some .t1 ∧ completes (exec (.taskSched 3 5) sD) = true
    ∧ completes (exec .hfStartDelay sD) = true ∧ completes (exec (.slpDuration 5) sD) = true
    ∧ completes (exec .postMsg sD) = true ∧ completes (exec .clkReset0 sD) = true ∧ isQuery .wakeRead = true
    ∧ completes (exec .wakeRead sD) = true ∧ completes (exec .clkStart sD) = true ∧ sD.poolInit = true := by decide

/-- The foreground's time query stands before its second reading of the tally, which is 0. -/
def querying (i : Instr) (l : Label) : State := next .fg (fgAt i l sD)

theorem witness_ForegroundTimeIsNeverTorn :
    ((next (.cnt ⟨false, false, false, false⟩) (querying .clkNow (.clkNow (.s3 0 0)))).nowFits = true
      ∧ (next (.cnt ⟨false, false, false, false⟩) (querying .clkNow (.clkNow (.s3 0 0)))).nextCommand = none
      ∧ completes (step (next (.cnt ⟨false, false, false, false⟩) (querying .clkNow (.clkNow (.s3 0 0))))) = true)
    ∧ (∀ f ∈ [CmdFrame.mk .clkNow (.clkNow (.s3 0 0)), ⟨.tmrStart 1 2 5, .tmrStart (.now (.s3 0 0))⟩,
          ⟨.taskSched 1 5, .taskSched (.now (.s3 0 0))⟩, ⟨.slpTimeout 5, .slpTimeout (.arm 5 (.now (.s3 0 0)))⟩,
          ⟨.slpDuration 5, .slpDuration (.begin (.s3 0 0))⟩, ⟨.hfStartDelay, .hfStartDelay (.again 0 (.s3 0 0))⟩],
        (querying f.cmd f.label).fgMayStep = true ∧ (querying f.cmd f.label).nowFits = true
        ∧ f.label.belongsTo f.cmd = true ∧ f.label.query = some (.s3 sD.ovf 0)
        ∧ after (step (querying f.cmd f.label)) (fun t => !t.fault) = true)
    ∧ sD.intenOvf = true ∧ (poolIx? sD.cfg.nTimers 1).isSome = true
    ∧ ((querying .clkNow (.clkNow (.s3 1 0))).fgMayStep = true ∧ (1 : Word) ≠ sD.ovf
      ∧ after (step (querying .clkNow (.clkNow (.s3 1 0)))) (fun t => !t.fault) = true) := by decide

/-- Log 18: TMR.START stands before its commit and a handler has meanwhile expired the timer. -/
def expiredBeforeCommit : State :=
  next .fg (fgAt (.tmrStart 0 1 100) (.tmrStart (.commit 0)) (programmed 0x61000064 sD))

/-- R143 S5, R147 S3: the commit of a TMR.START whose timer a handler has expired sets the enable, and the end of a TMR.CANCEL
whose timer a callback has armed again clears `INUSE` alone (log 18). -/
theorem test_overtaken :
    after (step expiredBeforeCommit) (fun t => t.chans.c0.inten && !t.timers.p0.inUse) = true
    ∧ after (step (next .fg (fgAt (.tmrCancel 0) (.tmrCancel .s3) (enabled (busy0 sD)))))
        (fun t => t.chans.c0.inten && !t.timers.p0.inUse) = true := by decide

theorem witness_EveryStepKeepsEnabledChannelsInUse : expiredBeforeCommit.Inv ∧ expiredBeforeCommit.enabledInUse = true
    ∧ completes (step expiredBeforeCommit) = true := by
  unfold State.Inv; decide

end Sys2Proof.Tests
end

section
/-! SUPPORT. What the sequencers do with a move: when `FG` is held back, what a fetch finds, how a micro-step of a command
concludes, and a property kept by every write is kept by every step. -/

namespace Sys2Proof.Machine

/-! ## Taking the move from the schedule -/

section

variable (s : State)

@[simp] theorem State.takeMove_irqReq : s.takeMove.irqReq = s.irqReq := by
  unfold State.takeMove; split <;> rfl
@[simp] theorem State.takeMove_fgMayStep : s.takeMove.fgMayStep = s.fgMayStep := by
  unfold State.takeMove; split <;> rfl
@[simp] theorem State.takeMove_fgWords : s.takeMove.fgWords = s.fgWords := by
  unfold State.takeMove; split <;> rfl

end

/-! ## When `FG` may step, and what a fetch finds -/

/-- What holds `FG` back, beside a missing command (00_scope.md R4). -/
theorem State.fgMayStep_eq_false_iff {s : State} :
    s.fgMayStep = false ↔ s.fault = true ∨ s.isrActive = true ∨ s.irqReq = true ∨ s.fgWaiting = true := by
  simp [State.fgMayStep, or_assoc, imp_iff_not_or]

theorem State.isrActive_of_fgMayStep {s : State} (h : s.fgMayStep = true) : s.isrActive = false := by
  by_contra ha
  exact absurd (State.fgMayStep_eq_false_iff.mpr (.inr (.inl (by simpa using ha)))) (by simp [h])

theorem fgStep_of_held {s : State} (h : s.fgMayStep = false) : fgStep s = .next s := by
  simp [fgStep, h]

theorem fgStep_of_frame {s : State} {f : CmdFrame} (hm : s.fgMayStep = true) (hf : s.fgFrame = some f) :
    fgStep s = exec f.cmd s := by
  simp [fgStep, hm, hf]

theorem isrStep_of_faulted {s : State} (line : Line) (h : s.fault = true) : isrStep line s = .next s := by
  simp [isrStep, h]

theorem isrStep_of_list {s : State} (line : Line) {f : IsrFrame} {l : ListFrame} {rest : List ListFrame}
    (hf : s.fault = false) (ha : s.isrActive = true) (hfr : s.isrFrame = some f) (hl : f.stack = l :: rest) :
    isrStep line s = listStep f l s := by
  simp [isrStep, hf, ha, hfr, hl]

theorem fetch_of_getElem {l : List Word} {pc : Offset} {w : Word} (hl : l.length ≤ 2 ^ 30)
    (hw : l[pc.toNat / 4]? = some w) : fetch l pc = .word w := by
  rw [fetch, if_neg (Nat.not_lt.mpr hl), wordAt, hw]

theorem fetch_of_past_end {l : List Word} {pc : Offset} (hl : l.length ≤ 2 ^ 30) (hpc : l.length ≤ pc.toNat / 4) :
    fetch l pc = .atEnd := by
  rw [fetch, if_neg (Nat.not_lt.mpr hl), wordAt, List.getElem?_eq_none hpc]

theorem wordAt_of_fetch {l : List Word} {pc : Offset} {w : Word} (h : fetch l pc = .word w) : wordAt l pc = some w := by
  unfold fetch at h
  split at h
  · cases h
  · cases hw : wordAt l pc with
    | some v => simpa [hw] using h
    | none => simp [hw] at h

theorem runWord_of_decode {w : Word} {i : Instr} (s : State) (h : decode w = .ok i) : runWord w s = exec i s := by
  simp [runWord, h]

/-! ## How a micro-step of a command concludes -/

/-- `P` is kept by what the commands write, the bookkeeping of their lists and faults left out. -/
structure EffectClosed (P : State → Prop) : Prop extends WriteClosed P where
  res : ∀ s v, P s → P { s with res := v }
  sane : ∀ s v, P s → P { s with sane := v }
  start : ∀ s, P s → P s.startClock
  rebase : ∀ s, P s → P { s with ovf := 0, lastNow := 0 }

/-- From `u`, its effects done, command `i` stays under execution at a label of its own, or completes, or raises a fault
(30_encoding.md R82). -/
def Concludes (i : Instr) (u t : State) : Prop :=
  (∃ l : Label, l.belongsTo i = true ∧ t = u.hold { cmd := i, label := l }) ∨ t = u.complete ∨ ∃ c, t = u.raiseFault c

section

variable {P : State → Prop} {i : Instr} {s u : State}

theorem exists_concludes_complete (h : P u) : ∃ v, P v ∧ Concludes i v u.complete := ⟨u, h, .inr (.inl rfl)⟩

theorem exists_concludes_raiseFault (h : P u) (c : FaultCode) : ∃ v, P v ∧ Concludes i v (u.raiseFault c) :=
  ⟨u, h, .inr (.inr ⟨c, rfl⟩)⟩

theorem exists_concludes_settle {ℓ α : Type} {m : Micro ℓ α} {into : ℓ → Label} {res : α → State → State} (hm : m.All P)
    (hl : ∀ l, (into l).belongsTo i = true) (hr : ∀ v u, P u → P (res v u)) :
    ∃ u, P u ∧ Concludes i u (m.settle i into res) :=
  Micro.Sat.settle (Q := fun t => ∃ u, P u ∧ Concludes i u t) hm (fun l u h => ⟨u, h, .inl ⟨into l, hl l, rfl⟩⟩)
    (fun v _ h => exists_concludes_complete (hr v _ h)) fun c _ h => exists_concludes_raiseFault h c

theorem exists_concludes_post (hP : WriteClosed P) (hs : P s) (p : Post) : ∃ u, P u ∧ Concludes i u (s.post p) := by
  unfold State.post arbWrite
  cases arbTable s.wake p with
  | write => exact exists_concludes_complete (hP.wake s _ (Post.reason_ne_unknown p) hs)
  | keep => exact exists_concludes_complete hs
  | fault c => exact exists_concludes_raiseFault hs c

end

/-- Every micro-step of every command does its effects and then concludes once. -/
theorem exec_concludes {P : State → Prop} (hP : EffectClosed P) {i : Instr} {s t : State} (hs : P s)
    (h : exec i s = .next t) : ∃ u, P u ∧ Concludes i u t := by
  have hW := hP.toWriteClosed
  have same : ∀ (_ : Unit) u, P u → P u := fun _ _ h => h
  cases i <;> cases h
  case wakeRead => exact exists_concludes_complete (hP.res s _ hs)
  case postMsg => exact exists_concludes_post hW hs _
  case postBrownout => exact exists_concludes_post hW hs _
  case lfStart =>
    refine exists_concludes_settle (foregroundOnly_all hs ?_) (fun _ => rfl) same
    split
    · exact lfStep_all hW hs _
    · exact hP.wake s _ (by decide) hs
  case hfStartDelay =>
    refine exists_concludes_settle (foregroundOnly_all hs ?_) (fun _ => rfl) same
    split
    · exact durationStep_all hW hs _ _
    · exact hP.osc s _ hs
  case hfStartIrq =>
    refine exists_concludes_settle (foregroundOnly_all hs ?_) (fun _ => rfl) same
    split
    · exact hfIrqStep_all hW hs _
    · exact hfCheck_all hs
  case clkStart =>
    split
    · exact exists_concludes_raiseFault hs _
    · exact exists_concludes_complete (hP.start s hs)
  case clkNow => exact exists_concludes_settle (nowStep_all hW hs _) (fun _ => rfl) fun _ u h => hP.res u _ h
  case clkReset0 => exact exists_concludes_complete (hP.rebase s hs)
  case clkIsRunning => exact exists_concludes_complete (hP.res s _ hs)
  case clkWaitTick =>
    refine exists_concludes_settle ?_ (fun _ => rfl) same
    unfold waitTickStep
    split
    · exact hs
    · split <;> exact hs
  case tmrStart =>
    refine exists_concludes_settle (withPoolIx_all hs _ fun j => ?_) (fun _ => rfl) same
    split
    · exact armStep_all hW hs _ _ _
    · exact startCheck_all hW hs _ _
  case tmrCancel =>
    refine exists_concludes_settle (withPoolIx_all hs _ fun j => ?_) (fun _ => rfl) same
    split
    · exact stopStep_all hW hs _ _
    · exact hs
  case tmrIsStarted =>
    split
    · exact exists_concludes_complete (hP.res s _ hs)
    · exact exists_concludes_raiseFault hs _
  case tmrIsExpired =>
    split
    · exact exists_concludes_complete (hP.res s _ hs)
    · exact exists_concludes_raiseFault hs _
  case taskSched =>
    refine exists_concludes_settle ?_ (fun _ => rfl) same
    split
    · exact armStep_all hW hs _ _ _
    · exact schedCheck_all hW hs _
  case slpTimeout =>
    exact exists_concludes_settle (foregroundOnly_all hs (sleepStep_all hW hs _ _)) (fun _ => rfl) same
  case slpDuration =>
    refine exists_concludes_settle (foregroundOnly_all hs ?_) (fun _ => rfl) same
    split
    · exact durationStep_all hW hs _ _
    · exact hs
  case slpUntil =>
    refine exists_concludes_settle (foregroundOnly_all hs ?_) (fun _ => rfl) same
    split
    · exact untilStep_all hW hs _ _
    · exact hs
  case slpIsTimer => exact exists_concludes_complete (hP.res s _ hs)
  case slpSetSane => exact exists_concludes_complete (hP.sane s _ hs)

end Sys2Proof.Machine
end

section
/-! SUPPORT. What no step undoes: the property is kept by every write, and so by every step of any agent. -/

namespace Sys2Proof.Machine

/-- `P` is kept by the agents that step on their own, by an entry, and by the host's access (00_scope.md R2). -/
structure AgentClosed (P : State → Prop) : Prop where
  enter : ∀ s line, P s → P (s.enter line)
  tick : ∀ s d, P s → P (s.tick d)
  settle : ∀ s, P s → P (settleStep s)
  osc : ∀ s x, P s → P (oscStep x s)
  radio : ∀ s, P s → P (envRadioStep s)
  power : ∀ s, P s → P (envPowerStep s)
  envWake : ∀ s, P s → P (envWakeStep s)
  issue : ∀ s w, P s → P (s.issue w)

section

variable {P : State → Prop} (hE : ExecClosed P) {s t : State} (hs : P s)
include hE hs

theorem fgStep_closed (h : fgStep s = .next t) : P t := by
  obtain rfl | ⟨-, f, -, h⟩ | ⟨-, -, w, -, ⟨i, -, h⟩ | ⟨e, -, rfl⟩⟩ := fgStep_cases h
  · exact hs
  · exact exec_closed hE hs h
  · exact exec_closed hE hs h
  · exact hE.fault s _ hs

theorem isrStep_closed (hH : HandlerClosed P) (hA : AgentClosed P) {line : Line} (h : isrStep line s = .next t) :
    P t := by
  obtain rfl | ⟨-, -, -, rfl⟩ | ⟨-, -, f, hf, ⟨-, rfl⟩ | ⟨l, rest, -, hlist⟩⟩ := isrStep_cases h
  · exact hs
  · exact hA.enter s line hs
  · exact handlerStep_closed hH hf hs
  · obtain ⟨c, -, h⟩ | ⟨-, -, rfl⟩ | ⟨-, w, -, ⟨i, -, h⟩ | ⟨e, -, rfl⟩⟩ := hlist
    · exact exec_closed hE hs h
    · exact hH.frame s _ (by simp [hf]) hs
    · exact exec_closed hE hs h
    · exact hE.fault s _ hs

omit hE in
theorem hostWriteStep_closed (hA : AgentClosed P) (hf : ∀ s c, P s → P (s.raiseFault c)) (addr : Word) (n : Nat)
    (v : Word) : P (hostWriteStep addr n v s) := by
  unfold hostWriteStep
  split
  · exact hA.issue s v hs
  · exact hf s _ hs

/-- A property kept by the writes of the commands, of the handlers and of the agents is kept by every move. -/
theorem moveStep_closed (hH : HandlerClosed P) (hA : AgentClosed P) {m : Move} (h : moveStep m s = .next t) : P t := by
  cases m with
  | fg => exact fgStep_closed hE hs h
  | isr line => exact isrStep_closed hE hs hH hA h
  | cnt d =>
    cases h
    unfold cntStep
    split
    · exact hA.tick s d hs
    · exact hs
  | settle => cases h; exact hA.settle s hs
  | osc x => cases h; exact hA.osc s x hs
  | envRadio => cases h; exact hA.radio s hs
  | envPower => cases h; exact hA.power s hs
  | envWake => cases h; exact hA.envWake s hs
  | hostRead addr n =>
    cases h
    unfold hostReadStep
    split
    · exact hs
    · exact hE.fault s _ hs
  | hostWrite addr n v => cases h; exact hostWriteStep_closed hs hA hE.fault addr n v

end

/-- An oscillator is not taken back: running it keeps running, requested it does not stop (43_startup.md R220). -/
def OscState.Kept (x y : OscState) : Prop := (x = .running → y = .running) ∧ (x = .starting → y ≠ .stopped)

/-- What `t` keeps of `s` for good (00_scope.md R1, R12, 10_state.md R25, R27, R34, 20_memory.md R66, 43_startup.md R220). -/
def State.Kept (s t : State) : Prop :=
  t.cfg = s.cfg ∧ s.history <+: t.history ∧ s.fgWords <+: t.fgWords
    ∧ (s.counterRunning = true → t.counterRunning = true) ∧ (s.intenOvf = true → t.intenOvf = true)
    ∧ (s.poolInit = true → t.poolInit = true) ∧ s.lfclk.Kept t.lfclk ∧ s.hfclk.Kept t.hfclk

theorem OscState.Kept.refl (x : OscState) : x.Kept x := ⟨id, fun h => by simp [h]⟩

theorem OscState.Kept.trans {x y z : OscState} (h : x.Kept y) (h' : y.Kept z) : x.Kept z := by
  refine ⟨fun hx => h'.1 (h.1 hx), fun hx => ?_⟩
  cases y with
  | stopped => exact absurd rfl (h.2 hx)
  | starting => exact h'.2 rfl
  | running => simp [h'.1 rfl]

theorem OscState.Kept.of_stopped {x : OscState} (h : x = .stopped) (y : OscState) : x.Kept y := by
  simp [OscState.Kept, h]

theorem OscState.Kept.running {x : OscState} : x.Kept .running := by simp [OscState.Kept]

section

variable {s u : State}

theorem State.Kept.refl (s : State) : s.Kept s :=
  ⟨rfl, ⟨[], List.append_nil _⟩, ⟨[], List.append_nil _⟩, id, id, id, .refl _, .refl _⟩

theorem State.Kept.append_history (h : s.Kept u) (e : Event) (b : Bool) (c : FaultCode) :
    s.Kept { u with history := u.history ++ [e], fault := b, faultCode := c } := by
  obtain ⟨hcfg, hhist, hrest⟩ := h
  exact ⟨hcfg, hhist.trans ⟨[e], rfl⟩, hrest⟩

theorem State.Kept.raiseFault (h : s.Kept u) (c : FaultCode) : s.Kept (u.raiseFault c) := by
  unfold State.raiseFault
  split
  · exact h
  · exact h.append_history _ _ _

/-- Words are only added to the foreground's list, at its end (20_memory.md R66). -/
theorem State.Kept.append_issued (h : s.Kept u) (ws : List Word) (held : Option Word) :
    s.Kept { u with issued := u.issued ++ ws, cmdHeld := held } := by
  obtain ⟨hcfg, hhist, hwords, hrest⟩ := h
  refine ⟨hcfg, hhist, hwords.trans ?_, hrest⟩
  exact ⟨ws, by simp [State.fgWords]⟩

/-- A write of the oscillators that takes neither back. -/
theorem State.Kept.set_oscs (h : s.Kept u) {x y : OscState} (hx : u.lfclk.Kept x) (hy : u.hfclk.Kept y) (a b : Bool) :
    s.Kept { u with lfclk := x, hfclk := y, evtLfStarted := a, evtHfStarted := b } := by
  obtain ⟨hcfg, hhist, hwords, hrun, hint, hpool, hlf, hhf⟩ := h
  exact ⟨hcfg, hhist, hwords, hrun, hint, hpool, hlf.trans hx, hhf.trans hy⟩

theorem State.Kept.startReq (h : s.Kept u) (x : Osc) : s.Kept (u.startReq x) := by
  cases x <;> simp only [State.startReq] <;> split
  case lf.isTrue hu => exact h.set_oscs (.of_stopped hu _) (.refl _) _ _
  case hf.isTrue hu => exact h.set_oscs (.refl _) (.of_stopped hu _) _ _
  all_goals exact h

theorem State.Kept.oscStep (h : s.Kept u) (x : Osc) : s.Kept (oscStep x u) := by
  cases x <;> simp only [Machine.oscStep] <;> split
  case lf.isTrue => exact h.set_oscs .running (.refl _) _ _
  case hf.isTrue => exact h.set_oscs (.refl _) .running _ _
  all_goals exact h

/-- CLK.START sets the counter running, arms the overflow interrupt and leaves the pool initialised (40_clock.md R105). -/
theorem State.Kept.startClock (h : s.Kept u) : s.Kept u.startClock := by
  obtain ⟨hcfg, hhist, hwords, -, -, -, hosc⟩ := h
  unfold State.startClock
  dsimp only
  split
  · rename_i hu
    exact ⟨hcfg, hhist, hwords, fun _ => rfl, fun _ => rfl, fun _ => hu, hosc⟩
  · exact ⟨hcfg, hhist, hwords, fun _ => rfl, fun _ => rfl, fun _ => rfl, hosc⟩

theorem State.Kept.mapTop (h : s.Kept u) (g : ListFrame → ListFrame) : s.Kept (u.mapTop g) := by
  unfold State.mapTop
  split
  · split <;> exact h
  · exact h

theorem State.Kept.hold (h : s.Kept u) (f : CmdFrame) : s.Kept (u.hold f) := by
  unfold State.hold
  split
  · exact h
  · exact h.mapTop _

theorem State.Kept.complete (h : s.Kept u) : s.Kept u.complete := by
  unfold State.complete
  split
  · exact h.append_issued u.cmdHeld.toList none
  · exact h.mapTop _

theorem State.Kept.issue (h : s.Kept u) (w : Word) : s.Kept (u.issue w) := by
  obtain ⟨hi, -⟩ | ⟨hi, -⟩ | ⟨hi, -⟩ := issue_cases u w
  · rw [hi]; exact h
  · rw [hi]; exact h
  · rw [hi]; exact h.append_issued [w] u.cmdHeld

end

theorem execClosed_kept (s : State) : ExecClosed s.Kept where
  lastNow _ _ h := h
  chan _ _ _ h := h
  timer _ _ _ h := h
  task _ _ _ _ h := h
  pend _ h := h
  wait _ _ _ h := h
  wake _ _ _ h := h
  inten _ _ _ h := h
  osc _ x h := h.startReq x
  res _ _ h := h
  sane _ _ h := h
  start _ h := h.startClock
  rebase _ h := h
  hold _ f h := h.hold f
  complete _ h := h.complete
  fault _ c h := h.raiseFault c

theorem handlerClosed_kept (s : State) : HandlerClosed s.Kept where
  chan _ _ _ h := h
  timer _ _ _ h := h
  task _ _ _ h := h
  wake _ _ h := h
  emit u e h := h.append_history e u.fault u.faultCode
  fault _ c h := h.raiseFault c
  overflow _ h := by unfold State.countOverflow; split <;> exact h
  started _ _ _ h := h
  frame _ _ _ h := h
  leave _ h := h

theorem agentClosed_kept (s : State) : AgentClosed s.Kept where
  enter u line h := h.append_history (.isrEntry line) u.fault u.faultCode
  tick _ _ h := h
  settle _ h := by unfold settleStep; split <;> exact h
  osc _ x h := h.oscStep x
  radio _ h := h
  power _ h := h
  envWake _ h := by unfold envWakeStep; split <;> exact h
  issue _ w h := h.issue w

theorem State.kept_takeMove (s : State) : s.Kept s.takeMove := by
  unfold State.takeMove
  split <;> exact State.Kept.refl s

/-- Every step of any agent keeps what is permanent. -/
theorem step_kept {s t : State} (h : step s = .next t) : s.Kept t :=
  moveStep_closed (execClosed_kept s) s.kept_takeMove (handlerClosed_kept s) (agentClosed_kept s) h

/-- Settles O56: each permanent fact is kept by every write of the model, so by every step. -/
theorem nothingPermanentIsUndone : Obligations.NothingPermanentIsUndone := by
  intro s t h
  obtain ⟨hcfg, hhist, hwords, hrun, hint, hpool, ⟨hlf, hlf'⟩, hhf, hhf'⟩ := step_kept h
  exact ⟨hcfg, hhist, hwords, hrun, hint, hpool, hlf, hlf', hhf, hhf'⟩

end Sys2Proof.Machine
end

section
/-! SUPPORT. Where the two sequencers stand: which steps move `PC`, `FG_FRAME` and `ISR_ACTIVE`, append an entry to the
history, or move the list a handler runs. -/

namespace Sys2Proof.Machine

/-- The event is an interrupt entry (00_scope.md R12). -/
def Event.isEntry : Event → Bool := fun e => match e with | .isrEntry _ => true | _ => false

/-- The interrupt entries of the history. -/
def State.entries (s : State) : List Event := s.history.filter Event.isEntry

/-- What a handler must leave as it is: the place of the foreground, `ISR_ACTIVE`, and the interrupt entries so far. -/
structure Standing where
  pc : Offset
  fgFrame : Option CmdFrame
  isrActive : Bool
  entries : List Event

/-- The standing of a state. -/
def State.standing (s : State) : Standing :=
  { pc := s.pc, fgFrame := s.fgFrame, isrActive := s.isrActive, entries := s.entries }

section

variable {s t : State}

theorem State.pc_of_standing (h : t.standing = s.standing) : t.pc = s.pc := congrArg Standing.pc h
theorem State.fgFrame_of_standing (h : t.standing = s.standing) : t.fgFrame = s.fgFrame := congrArg Standing.fgFrame h
theorem State.isrActive_of_standing (h : t.standing = s.standing) : t.isrActive = s.isrActive :=
  congrArg Standing.isrActive h
theorem State.entries_of_standing (h : t.standing = s.standing) : t.entries = s.entries := congrArg Standing.entries h

end

section

variable (s : State)

theorem State.entries_append {e : Event} (he : e.isEntry = false) :
    (s.history ++ [e]).filter Event.isEntry = s.entries := by
  simp [State.entries, List.filter_append, he]

@[simp] theorem State.standing_takeMove : s.takeMove.standing = s.standing := by
  unfold State.takeMove; split <;> rfl

@[simp] theorem State.standing_raiseFault (c : FaultCode) : (s.raiseFault c).standing = s.standing := by
  unfold State.raiseFault
  split
  · rfl
  · simp only [State.standing, State.entries, s.entries_append (e := .fault c) rfl]

@[simp] theorem State.standing_emit {e : Event} (he : e.isEntry = false) : (s.emit e).standing = s.standing := by
  simp only [State.emit, State.standing, State.entries, s.entries_append he]

@[simp] theorem State.standing_atHandler (f : IsrFrame) (l : HandlerLabel) : (s.atHandler f l).standing = s.standing := rfl
@[simp] theorem State.standing_pushList (f : IsrFrame) (l : HandlerLabel) (i : ListId) :
    (s.pushList f l i).standing = s.standing := rfl
@[simp] theorem State.standing_setChan (ch : ChIx) (v : Channel) : (s.setChan ch v).standing = s.standing := rfl

@[simp] theorem State.standing_scanIndex (j : PoolIx) : (s.scanIndex j).standing = s.standing := by
  unfold State.scanIndex; split <;> rfl

@[simp] theorem State.standing_scanTask : s.scanTask.standing = s.standing := by
  unfold State.scanTask; split <;> rfl

@[simp] theorem State.standing_countOverflow : s.countOverflow.standing = s.standing := by
  unfold State.countOverflow; split <;> rfl

@[simp] theorem State.standing_mapTop (g : ListFrame → ListFrame) : (s.mapTop g).standing = s.standing := by
  unfold State.mapTop
  split
  · split <;> rfl
  · rfl

/-! ## The handlers -/

@[simp] theorem standing_postFrom (f : IsrFrame) (next : HandlerLabel) (p : Post) :
    (postFrom f next p s).standing = s.standing := by
  unfold postFrom arbWrite
  cases arbTable s.wake p with
  | write => rfl
  | keep => rfl
  | fault c => exact s.standing_raiseFault c

@[simp] theorem standing_dispatch (f : IsrFrame) (next : HandlerLabel) (j : PoolIx) (cb : BitVec 2) (tag : CallbackTag) :
    (dispatch f next j cb tag s).standing = s.standing := by
  have he : (s.emit (.callback j cb tag)).standing = s.standing := s.standing_emit rfl
  unfold dispatch
  dsimp only
  split
  · exact (standing_postFrom (s.emit (.callback j cb tag)) f next (tagPost tag)).trans he
  · exact he

@[simp] theorem standing_handleTask (f : IsrFrame) : (handleTask f s).standing = s.standing := by
  unfold handleTask
  split
  · exact State.standing_emit (s.setChan .ch3 { s.chan .ch3 with inten := false, evt := false })
      (e := .taskRun s.taskId) rfl
  · rfl

/-- A handler's micro-step other than its exit leaves the standing as it is. -/
theorem standing_handlerStep {f : IsrFrame} (hl : f.label ≠ .exit) : (handlerStep f s).standing = s.standing := by
  unfold handlerStep
  split
  case h_1 => simp
  case h_2 => split <;> simp
  case h_3 => simp
  case h_4 => simp
  case h_5 => simp
  case h_6 => simp
  case h_7 => split <;> simp
  case h_8 j cb l todo _ => cases l <;> rfl
  case h_9 => simp
  case h_10 => split <;> simp
  case h_11 => simp
  case h_12 => simp
  case h_13 => rfl
  case h_14 => rfl
  case h_15 => split <;> simp
  case h_16 => rfl
  case h_17 => split <;> simp
  case h_18 => simp
  case h_19 => simp
  case h_20 h => exact absurd h hl

end

/-! ## The commands -/

/-- The effects of a command leave the standing and `ISR_FRAME` as they are; only its conclusion moves them. -/
theorem effectClosed_standing (s : State) :
    EffectClosed fun u => u.standing = s.standing ∧ u.isrFrame = s.isrFrame where
  lastNow _ _ h := h
  chan _ _ _ h := h
  timer _ _ _ h := h
  task _ _ _ _ h := h
  pend _ h := h
  wait _ _ _ h := h
  wake _ _ _ h := h
  inten _ _ _ h := h
  osc _ x h := by cases x <;> simp only [State.startReq] <;> split <;> exact h
  res _ _ h := h
  sane _ _ h := h
  start _ h := by unfold State.startClock; dsimp only; split <;> exact h
  rebase _ h := h

/-- A foreground micro-step of a command moves `PC` by 4 at its completion and in no other way. -/
theorem exec_pc_fg {i : Instr} {s t : State} (ha : s.isrActive = false) (h : exec i s = .next t) :
    t.pc = s.pc ∨ (t.pc = s.pc + 4 ∧ t.fgFrame = none) := by
  obtain ⟨u, ⟨hst, -⟩, ⟨l, -, rfl⟩ | rfl | ⟨c, rfl⟩⟩ := exec_concludes (effectClosed_standing s) ⟨rfl, rfl⟩ h
  · exact .inl (by simp [State.pc_of_standing hst])
  · rw [State.complete_fg u ((State.isrActive_of_standing hst).trans ha)]
    exact .inr ⟨congrArg (· + 4) (State.pc_of_standing hst), rfl⟩
  · exact .inl (by simp [State.pc_of_standing hst])

/-- In interrupt context a micro-step of a command leaves the foreground where it is. -/
theorem standing_exec_isr {i : Instr} {s t : State} (ha : s.isrActive = true) (h : exec i s = .next t) :
    t.standing = s.standing := by
  obtain ⟨u, ⟨hst, -⟩, hc⟩ := exec_concludes (effectClosed_standing s) ⟨rfl, rfl⟩ h
  have hu : u.ctx = .isr := u.ctx_isr ((State.isrActive_of_standing hst).trans ha)
  obtain ⟨l, -, rfl⟩ | rfl | ⟨c, rfl⟩ := hc
  · simp [State.hold, hu, hst]
  · simp [State.complete, hu, hst]
  · simp [hst]

/-- The list `k` after a micro-step of a command of the list `l`: a new frame, a completion, or a fault that leaves it. -/
def ListFrame.MovesTo (l k : ListFrame) : Prop :=
  (∃ fr, k = { l with frame := fr }) ∨ k = { l with pc := l.pc + 4, frame := none }

/-- A micro-step of a command of a handler's list moves the top of the list stack alone. -/
theorem isrFrame_exec_isr {i : Instr} {s t : State} {f : IsrFrame} {l : ListFrame} {rest : List ListFrame}
    (ha : s.isrActive = true) (hf : s.isrFrame = some f) (hl : f.stack = l :: rest) (h : exec i s = .next t) :
    ∃ k, l.MovesTo k ∧ t.isrFrame = some { f with stack := k :: rest } := by
  obtain ⟨u, ⟨hst, hfr⟩, hc⟩ := exec_concludes (effectClosed_standing s) ⟨rfl, rfl⟩ h
  have hua : u.isrActive = true := (State.isrActive_of_standing hst).trans ha
  have huf : u.isrFrame = some f := hfr.trans hf
  obtain ⟨b, -, rfl⟩ | rfl | ⟨c, rfl⟩ := hc
  · rw [State.hold_isr u hua huf hl]
    exact ⟨_, .inl ⟨_, rfl⟩, rfl⟩
  · rw [State.complete_isr u hua huf hl]
    exact ⟨_, .inr rfl, rfl⟩
  · exact ⟨l, .inl ⟨l.frame, rfl⟩, by simp [huf, ← hl]⟩

/-! ## The moves -/

/-- The moves of the other agents and of the host leave both sequencers where they are. -/
theorem standing_moveStep {m : Move} {s t : State} (hfg : m ≠ .fg) (hisr : ∀ line, m ≠ .isr line)
    (h : moveStep m s = .next t) : t.standing = s.standing ∧ t.isrFrame = s.isrFrame := by
  cases m with
  | fg => exact absurd rfl hfg
  | isr line => exact absurd rfl (hisr line)
  | cnt d => cases h; unfold cntStep; split <;> exact ⟨rfl, rfl⟩
  | settle => cases h; unfold settleStep; split <;> exact ⟨rfl, rfl⟩
  | osc x => cases h; cases x <;> simp only [oscStep] <;> split <;> exact ⟨rfl, rfl⟩
  | envRadio => cases h; exact ⟨rfl, rfl⟩
  | envPower => cases h; exact ⟨rfl, rfl⟩
  | envWake => cases h; unfold envWakeStep; split <;> exact ⟨rfl, rfl⟩
  | hostRead addr n => cases h; unfold hostReadStep; split <;> simp
  | hostWrite addr n v =>
    cases h
    unfold hostWriteStep
    split
    · obtain ⟨hi, -⟩ | ⟨hi, -⟩ | ⟨hi, -⟩ := issue_cases s v <;> rw [hi] <;> exact ⟨rfl, rfl⟩
    · simp

/-- While a handler is active a move of the interrupt sequencer leaves the standing as it is, or is the exit (60_exceptions.md
R253, R254). -/
theorem standing_isrStep {line : Line} {s t : State} (ha : s.isrActive = true) (h : isrStep line s = .next t) :
    t.standing = s.standing
      ∨ (s.fault = false ∧ ∃ f, s.isrFrame = some f ∧ f.label = .exit ∧ f.stack = [] ∧ t = s.leave) := by
  obtain rfl | ⟨-, hidle, -⟩ | ⟨hfault, -, f, hf, ⟨hstack, rfl⟩ | ⟨l, rest, -, hlist⟩⟩ := isrStep_cases h
  · exact .inl rfl
  · simp [ha] at hidle
  · by_cases hl : f.label = .exit
    · exact .inr ⟨hfault, f, hf, hl, hstack, by simp [handlerStep, hl]⟩
    · exact .inl (standing_handlerStep s hl)
  · left
    obtain ⟨c, -, h⟩ | ⟨-, -, rfl⟩ | ⟨-, w, -, ⟨i, -, h⟩ | ⟨e, -, rfl⟩⟩ := hlist
    · exact standing_exec_isr ha h
    · rfl
    · exact standing_exec_isr ha h
    · simp

/-- A move of the interrupt sequencer, its entries and exits included, leaves the foreground where it is. -/
theorem foreground_isrStep {line : Line} {s t : State} (h : isrStep line s = .next t) :
    t.pc = s.pc ∧ t.fgFrame = s.fgFrame := by
  cases ha : s.isrActive with
  | true =>
    obtain hst | ⟨-, f, -, -, -, rfl⟩ := standing_isrStep ha h
    · exact ⟨State.pc_of_standing hst, State.fgFrame_of_standing hst⟩
    · exact ⟨rfl, rfl⟩
  | false =>
    obtain rfl | ⟨-, -, -, rfl⟩ | ⟨-, hactive, -⟩ := isrStep_cases h
    · exact ⟨rfl, rfl⟩
    · exact ⟨rfl, rfl⟩
    · simp [ha] at hactive

/-- A move of `FG` keeps its `PC`, or it completes a command. -/
theorem foreground_fgStep {s t : State} (h : fgStep s = .next t) :
    t = s ∨ (s.fgMayStep = true ∧ (t.pc = s.pc ∨ (t.pc = s.pc + 4 ∧ t.fgFrame = none))) := by
  obtain rfl | ⟨hm, f, -, h⟩ | ⟨hm, -, w, -, ⟨i, -, h⟩ | ⟨e, -, rfl⟩⟩ := fgStep_cases h
  · exact .inl rfl
  · exact .inr ⟨hm, exec_pc_fg (State.isrActive_of_fgMayStep hm) h⟩
  · exact .inr ⟨hm, exec_pc_fg (State.isrActive_of_fgMayStep hm) h⟩
  · exact .inr ⟨hm, .inl (by simp)⟩

/-- A step is one of `FG`, or one of the interrupt sequencer, or leaves both sequencers where they are. -/
theorem step_cases {s t : State} (h : step s = .next t) :
    (s.nextMove = .fg ∧ fgStep s.takeMove = .next t)
      ∨ (∃ line, s.nextMove = .isr line ∧ isrStep line s.takeMove = .next t)
      ∨ (t.standing = s.standing ∧ t.isrFrame = s.isrFrame) := by
  rw [step_eq] at h
  by_cases hfg : s.nextMove = .fg
  · rw [hfg] at h
    exact .inl ⟨hfg, h⟩
  by_cases hisr : ∃ line, s.nextMove = .isr line
  · obtain ⟨line, hline⟩ := hisr
    rw [hline] at h
    exact .inr (.inl ⟨line, hline, h⟩)
  · obtain ⟨hst, hframe⟩ := standing_moveStep hfg (fun line hl => hisr ⟨line, hl⟩) h
    exact .inr (.inr ⟨hst.trans s.standing_takeMove, hframe.trans s.takeMove_isrFrame⟩)

/-- While a handler is active the foreground has no step (00_scope.md R4). -/
theorem step_cases_active {s t : State} (ha : s.isrActive = true) (h : step s = .next t) :
    (t.standing = s.standing ∧ t.isrFrame = s.isrFrame)
      ∨ ∃ line, s.nextMove = .isr line ∧ isrStep line s.takeMove = .next t := by
  obtain ⟨-, hfg⟩ | hisr | hsame := step_cases h
  · rw [fgStep_of_held (State.fgMayStep_eq_false_iff.mpr (.inr (.inl (by simpa using ha))))] at hfg
    cases hfg
    exact .inl ⟨s.standing_takeMove, s.takeMove_isrFrame⟩
  · exact .inr hisr
  · exact .inl hsame

/-- Every step leaves the foreground where it is, or is a step of `FG`. -/
theorem foreground_step {s t : State} (h : step s = .next t) :
    (t.pc = s.pc ∧ t.fgFrame = s.fgFrame) ∨ (s.nextMove = .fg ∧ fgStep s.takeMove = .next t) := by
  obtain hfg | ⟨line, -, hisr⟩ | ⟨hst, -⟩ := step_cases h
  · exact .inr hfg
  · exact .inl (by simpa using foreground_isrStep hisr)
  · exact .inl ⟨State.pc_of_standing hst, State.fgFrame_of_standing hst⟩

/-- While a handler is active every step keeps the standing, or is the exit of the handler. -/
theorem standing_step {s t : State} (ha : s.isrActive = true) (h : step s = .next t) :
    t.standing = s.standing ∨ ((∃ f, s.handlerNext f .exit) ∧ t = s.takeMove.leave) := by
  obtain ⟨hst, -⟩ | ⟨line, hline, hisr⟩ := step_cases_active ha h
  · exact .inl hst
  · obtain hst | ⟨hfault, f, hf, hl, hstack, rfl⟩ := standing_isrStep (by simpa using ha) hisr
    · exact .inl (hst.trans s.standing_takeMove)
    · exact .inr ⟨⟨f, ⟨line, hline⟩, by simpa using hfault, ha, by simpa using hf, hl, hstack⟩, rfl⟩

/-- Settles O38: a step under a handler keeps the standing, but for the exit, which clears `ISR_ACTIVE` alone. -/
theorem noNestingAndForegroundFrozen : Obligations.NoNestingAndForegroundFrozen := by
  intro s t ha h
  obtain hst | ⟨hexit, rfl⟩ := standing_step ha h
  · refine ⟨State.entries_of_standing hst, State.pc_of_standing hst, State.fgFrame_of_standing hst, fun hidle => ?_⟩
    simp [State.isrActive_of_standing hst, ha] at hidle
  · exact ⟨by simp, by simp, by simp, fun _ => hexit⟩

/-! ## `PC` stays inside its list -/

theorem wordAt_of_frameFits {words : List Word} {pc : Offset} {f : CmdFrame} (h : frameFits words pc f = true) :
    ∃ w, wordAt words pc = some w := by
  cases hw : wordAt words pc with
  | some w => exact ⟨w, rfl⟩
  | none => simp [frameFits, hw] at h

theorem State.Inv.pc_aligned {s : State} (h : s.Inv) : s.pc.toNat % 4 = 0 := by
  obtain ⟨hfg, -⟩ := h
  simp only [State.fgFits, Bool.and_eq_true, beq_iff_eq] at hfg
  exact hfg.1

/-- A foreground command under execution stands at a word of its list. -/
theorem State.Inv.wordAt_of_frame {s : State} (h : s.Inv) {f : CmdFrame} (hf : s.fgFrame = some f) :
    ∃ w, wordAt s.fgWords s.pc = some w := by
  obtain ⟨hfg, -⟩ := h
  simp only [State.fgFits, hf, Bool.and_eq_true] at hfg
  obtain ⟨-, hfits, -⟩ := hfg
  exact wordAt_of_frameFits hfits

theorem State.Inv.isrActive_of_frame {s : State} (h : s.Inv) {f : IsrFrame} (hf : s.isrFrame = some f) :
    s.isrActive = true := by
  obtain ⟨-, hisr, -⟩ := h
  simp only [State.isrFits, hf, Bool.and_eq_true] at hisr
  obtain ⟨⟨hactive, -⟩, -⟩ := hisr
  exact hactive

theorem State.Inv.listFits_of_frame {s : State} (h : s.Inv) {f : IsrFrame} (hf : s.isrFrame = some f) {l : ListFrame}
    (hl : l ∈ f.stack) : listFits s.cfg l = true := by
  obtain ⟨-, hisr, -⟩ := h
  simp only [State.isrFits, hf, Bool.and_eq_true] at hisr
  obtain ⟨-, hall⟩ := hisr
  exact List.all_eq_true.mp hall l hl

theorem pc_aligned_of_listFits {p : Params} {l : ListFrame} (h : listFits p l = true) : l.pc.toNat % 4 = 0 := by
  simp only [listFits, Bool.and_eq_true, beq_iff_eq] at h
  exact h.1

theorem wordAt_of_listFits {p : Params} {l : ListFrame} (h : listFits p l = true) {c : CmdFrame}
    (hc : l.frame = some c) : ∃ w, wordAt (listWords p l.list) l.pc = some w := by
  simp only [listFits, hc, Bool.and_eq_true] at h
  obtain ⟨-, hfits, -⟩ := h
  exact wordAt_of_frameFits hfits

/-- Where a move of `FG` changes anything, `PC` addresses a word of the foreground's list. -/
theorem fgStep_wordAt {s t : State} (hframe : ∀ f, s.fgFrame = some f → ∃ w, wordAt s.fgWords s.pc = some w)
    (h : fgStep s = .next t) : t = s ∨ ∃ w, wordAt s.fgWords s.pc = some w := by
  obtain rfl | ⟨-, f, hf, -⟩ | ⟨-, -, w, hw, -⟩ := fgStep_cases h
  · exact .inl rfl
  · exact .inr (hframe f hf)
  · exact .inr ⟨w, wordAt_of_fetch hw⟩

/-- R22 of the foreground: its `PC` neither wraps nor passes the end of a legal list. -/
theorem step_pc_inside {s t : State} (hinv : s.Inv) (hlen : s.fgWords.length ≤ 2 ^ 30) (h : step s = .next t) :
    t.pc.toNat = s.pc.toNat ∨ (t.pc.toNat = s.pc.toNat + 4 ∧ t.pc.toNat ≤ 4 * s.fgWords.length) := by
  obtain ⟨hpc, -⟩ | ⟨-, hfg⟩ := foreground_step h
  · exact .inl (by rw [hpc])
  obtain rfl | ⟨w, hw⟩ := fgStep_wordAt (by simpa using fun f => hinv.wordAt_of_frame) hfg
  · exact .inl (by simp)
  obtain rfl | ⟨-, hpc | ⟨hpc, -⟩⟩ := foreground_fgStep hfg
  · exact .inl (by simp)
  · exact .inl (by simp [hpc])
  · right
    rw [State.takeMove_fgWords, State.takeMove_pc] at hw
    rw [hpc, State.takeMove_pc]
    exact pc_past_word hw hlen hinv.pc_aligned

/-- A list step pops the list, or leaves the list where it is, or moves it on from a word of its own. -/
theorem isrStep_list {line : Line} {s t : State} {f : IsrFrame} {l : ListFrame} (ha : s.isrActive = true)
    (hf : s.isrFrame = some f) (hl : f.stack = [l]) (hfits : listFits s.cfg l = true) (h : isrStep line s = .next t) :
    t.isrFrame = some f ∨ t = s.popList f
      ∨ ∃ k, l.MovesTo k ∧ t.isrFrame = some { f with stack := [k] }
          ∧ ∃ w, wordAt (listWords s.cfg l.list) l.pc = some w := by
  obtain rfl | ⟨-, hidle, -⟩ | ⟨-, -, f', hf', hcase⟩ := isrStep_cases h
  · exact .inl hf
  · simp [ha] at hidle
  obtain rfl : f = f' := Option.some.inj (hf.symm.trans hf')
  obtain ⟨hnil, -⟩ | ⟨l', rest, hl', hlist⟩ := hcase
  · simp [hl] at hnil
  obtain ⟨rfl, rfl⟩ : l = l' ∧ rest = [] := by simpa [eq_comm] using hl.symm.trans hl'
  obtain ⟨c, hc, h⟩ | ⟨-, -, rfl⟩ | ⟨-, w, hw, ⟨i, -, h⟩ | ⟨e, -, rfl⟩⟩ := hlist
  · obtain ⟨k, hk, htf⟩ := isrFrame_exec_isr ha hf hl h
    exact .inr (.inr ⟨k, hk, htf, wordAt_of_listFits hfits hc⟩)
  · exact .inr (.inl rfl)
  · obtain ⟨k, hk, htf⟩ := isrFrame_exec_isr ha hf hl h
    exact .inr (.inr ⟨k, hk, htf, w, wordAt_of_fetch hw⟩)
  · exact .inl (by simpa using hf)

theorem ListFrame.MovesTo.pc_inside {words : List Word} {l k : ListFrame} {w : Word} (h : l.MovesTo k)
    (hw : wordAt words l.pc = some w) (hlen : words.length ≤ 2 ^ 30) (h4 : l.pc.toNat % 4 = 0) :
    k.list = l.list ∧ (k.pc.toNat = l.pc.toNat ∨ (k.pc.toNat = l.pc.toNat + 4 ∧ k.pc.toNat ≤ 4 * words.length)) := by
  obtain ⟨fr, rfl⟩ | rfl := h
  · exact ⟨rfl, .inl rfl⟩
  · exact ⟨rfl, .inr (pc_past_word hw hlen h4)⟩

/-- R22 of a handler's list: while it stands on the stack, its `PC` neither wraps nor passes the end of a legal list. -/
theorem step_list_pc_inside {s t : State} {f g : IsrFrame} {l k : ListFrame} (hinv : s.Inv) (hf : s.isrFrame = some f)
    (hl : f.stack = [l]) (hg : t.isrFrame = some g) (hk : g.stack = [k])
    (hlen : (listWords s.cfg l.list).length ≤ 2 ^ 30) (h : step s = .next t) :
    k.list = l.list
      ∧ (k.pc.toNat = l.pc.toNat
          ∨ (k.pc.toNat = l.pc.toNat + 4 ∧ k.pc.toNat ≤ 4 * (listWords s.cfg l.list).length)) := by
  have ha := hinv.isrActive_of_frame hf
  have hfits : listFits s.cfg l = true := hinv.listFits_of_frame hf (by simp [hl])
  have same : t.isrFrame = some f → k = l := fun ht => by
    obtain rfl : g = f := Option.some.inj (hg.symm.trans ht)
    simpa using hk.symm.trans hl
  obtain ⟨-, ht⟩ | ⟨line, -, hisr⟩ := step_cases_active ha h
  · obtain rfl := same (ht.trans hf)
    exact ⟨rfl, .inl rfl⟩
  obtain ht | rfl | ⟨k', hmoves, ht, w, hw⟩ :=
    isrStep_list (by simpa using ha) (by simpa using hf) hl (by simpa using hfits) hisr
  · obtain rfl := same ht
    exact ⟨rfl, .inl rfl⟩
  · obtain rfl : { f with stack := f.stack.tail } = g := Option.some.inj hg
    simp [hl] at hk
  · obtain rfl : { f with stack := [k'] } = g := Option.some.inj (ht.symm.trans hg)
    obtain rfl : k' = k := by simpa using hk
    exact hmoves.pc_inside (by simpa using hw) hlen (pc_aligned_of_listFits hfits)

/-- Settles O57: `PC` moves at a completion of `FG` only; that it stays inside a legal list is `step_pc_inside` for the
foreground and `step_list_pc_inside` for a handler's list. -/
theorem programCounterMovesByFour : Obligations.ProgramCounterMovesByFour := by
  intro s t h
  refine ⟨?_, fun hinv hlen => step_pc_inside hinv hlen h, fun f g l k hinv hf hl hg hk hlen =>
    step_list_pc_inside hinv hf hl hg hk hlen h⟩
  obtain hstays | ⟨hmove, hfg⟩ := foreground_step h
  · exact .inl hstays
  obtain rfl | ⟨hmay, hpc⟩ := foreground_fgStep hfg
  · exact .inl ⟨by simp, by simp⟩
  · exact .inr ⟨hmove, by simpa using hmay, by simpa using hpc⟩

end Sys2Proof.Machine
end

section
/-! SUPPORT. What a step runs, what holds the foreground back, what a faulted block keeps, and the wait. -/

namespace Sys2Proof.Machine

/-- A move of `FG` between two commands runs the command its word decodes to (30_encoding.md R81, 20_memory.md R67). -/
theorem fgStep_of_word {s : State} {w : Word} {i : Instr} (hm : s.fgMayStep = true) (hf : s.fgFrame = none)
    (hlen : s.fgWords.length ≤ 2 ^ 30) (hw : s.fgWords[s.pc.toNat / 4]? = some w) (hd : decode w = .ok i) :
    fgStep s = exec i s := by
  rw [fgStep, if_pos hm, hf, fetch_of_getElem hlen hw]
  exact runWord_of_decode s hd

/-- Past the end of its list `FG` has no command (00_scope.md R4, 20_memory.md R67). -/
theorem fgStep_of_past_end {s : State} (hf : s.fgFrame = none) (hpc : s.fgWords.length ≤ s.pc.toNat / 4)
    (hlen : s.fgWords.length ≤ 2 ^ 30) : fgStep s = .next s := by
  rw [fgStep, hf, fetch_of_past_end hlen hpc]
  exact ite_self _

theorem listStep_of_frame {s : State} (f : IsrFrame) {l : ListFrame} {c : CmdFrame} (hc : l.frame = some c) :
    listStep f l s = exec c.cmd s := by
  simp [listStep, hc]

/-- A handler's list between two commands runs the command its word decodes to (60_exceptions.md R261). -/
theorem listStep_of_word {s : State} (f : IsrFrame) {l : ListFrame} {w : Word} {i : Instr} (hf : l.frame = none)
    (hlen : (listWords s.cfg l.list).length ≤ 2 ^ 30) (hw : (listWords s.cfg l.list)[l.pc.toNat / 4]? = some w)
    (hd : decode w = .ok i) : listStep f l s = exec i s := by
  rw [listStep, hf, fetch_of_getElem hlen hw]
  exact runWord_of_decode s hd

theorem step_of_fg {s : State} (hm : s.nextMove = .fg) : step s = fgStep s.takeMove := by
  rw [step_eq, hm, moveStep]

theorem step_of_isr {s : State} {line : Line} (hm : s.nextMove = .isr line) : step s = isrStep line s.takeMove := by
  rw [step_eq, hm, moveStep]

/-- A step of the interrupt sequencer with a list on its stack is a step of that list. -/
theorem step_of_list {s : State} {line : Line} {f : IsrFrame} {l : ListFrame} {rest : List ListFrame}
    (hm : s.nextMove = .isr line) (hf : s.fault = false) (ha : s.isrActive = true) (hfr : s.isrFrame = some f)
    (hl : f.stack = l :: rest) : step s = listStep f l s.takeMove := by
  rw [step_of_isr hm]
  exact isrStep_of_list line (by simpa using hf) (by simpa using ha) (by simpa using hfr) hl

/-- Settles O6. -/
theorem stepRunsTheDecodedCommand : Obligations.StepRunsTheDecodedCommand := by
  refine ⟨fun _ => rfl, fun _ => ⟨rfl, rfl, rfl, rfl, rfl, rfl, rfl, rfl, rfl, rfl⟩, ?fgFrame, ?fgWord, ?listFrame,
    ?listWord⟩
  case fgFrame =>
    intro s f hmove hmay hf
    rw [step_of_fg hmove]
    exact fgStep_of_frame (by simpa using hmay) (by simpa using hf)
  case fgWord =>
    intro s w i hmove hmay hf hlen hw hd
    rw [step_of_fg hmove]
    have hwords : s.takeMove.fgWords = s.cfg.program ++ s.issued := s.takeMove_fgWords
    exact fgStep_of_word (by simpa using hmay) (by simpa using hf) (by rwa [hwords])
      (by rwa [hwords, State.takeMove_pc]) hd
  case listFrame =>
    intro s line f l rest c hmove hf ha hfr hl hc
    rw [step_of_list hmove hf ha hfr hl]
    exact listStep_of_frame f hc
  case listWord =>
    intro s line f l rest w i hmove hf ha hfr hl hc hlen hw hd
    rw [step_of_list hmove hf ha hfr hl]
    exact listStep_of_word f hc (by simpa using hlen) (by simpa using hw) hd

/-- A move of `FG` changes nothing while something holds `FG` back (00_scope.md R4). -/
theorem step_of_held {s : State} (hm : s.nextMove = .fg)
    (h : s.fault = true ∨ s.isrActive = true ∨ s.irqReq = true ∨ s.fgWaiting = true) : step s = .next s.takeMove := by
  rw [step_of_fg hm]
  exact fgStep_of_held (s.takeMove_fgMayStep.trans (State.fgMayStep_eq_false_iff.mpr h))

/-- Settles O7. -/
theorem foregroundIsHeldBack : Obligations.ForegroundIsHeldBack := by
  intro s hm h
  obtain hfault | hactive | hirq | hwaiting | ⟨hframe, hpc, hlen⟩ := h
  · exact step_of_held hm (.inl hfault)
  · exact step_of_held hm (.inr (.inl hactive))
  · exact step_of_held hm (.inr (.inr (.inl hirq)))
  · exact step_of_held hm (.inr (.inr (.inr hwaiting)))
  · rw [step_of_fg hm]
    exact fgStep_of_past_end (by simpa using hframe) (by simpa using hpc) (by simpa using hlen)

/-- `t` has the sticky fault of `s`, with its code, and the same history (60_exceptions.md R243). -/
def State.FaultAs (s t : State) : Prop := t.fault = s.fault ∧ t.faultCode = s.faultCode ∧ t.history = s.history

/-- In a faulted block no move records another fault or appends to the history. -/
theorem faultAs_moveStep {m : Move} {s t : State} (hf : s.fault = true) (h : moveStep m s = .next t) : s.FaultAs t := by
  have same : s.FaultAs s := ⟨rfl, rfl, rfl⟩
  cases m with
  | fg =>
    rw [moveStep, fgStep_of_held (State.fgMayStep_eq_false_iff.mpr (.inl hf))] at h
    cases h; exact same
  | isr line =>
    rw [moveStep, isrStep_of_faulted line hf] at h
    cases h; exact same
  | cnt d => cases h; unfold cntStep; split <;> exact same
  | settle => cases h; unfold settleStep; split <;> exact same
  | osc x => cases h; cases x <;> simp only [oscStep] <;> split <;> exact same
  | envRadio => cases h; exact same
  | envPower => cases h; exact same
  | envWake => cases h; unfold envWakeStep; split <;> exact same
  | hostRead addr n =>
    cases h
    unfold hostReadStep
    split
    · exact same
    · rwa [s.raiseFault_of_faulted hf]
  | hostWrite addr n v =>
    cases h
    unfold hostWriteStep
    split
    · obtain ⟨hi, -⟩ | ⟨hi, -⟩ | ⟨hi, -⟩ := issue_cases s v <;> rw [hi] <;> exact same
    · rwa [s.raiseFault_of_faulted hf]

theorem step_of_faulted_isr {s : State} {line : Line} (hf : s.fault = true) (hm : s.nextMove = .isr line) :
    step s = .next s.takeMove := by
  rw [step_of_isr hm]
  exact isrStep_of_faulted line (by simpa using hf)

/-- Settles O8. -/
theorem faultedBlockStaysStopped : Obligations.FaultedBlockStaysStopped := by
  intro s hf
  refine ⟨by simp [State.ended, hf], ?stopped, fun t h => ?kept⟩
  case stopped =>
    rintro (hm | ⟨line, hm⟩)
    · exact step_of_held hm (.inl hf)
    · exact step_of_faulted_isr hf hm
  case kept =>
    rw [step_eq] at h
    obtain ⟨hfault, hcode, hhist⟩ := faultAs_moveStep (by simpa using hf) h
    exact ⟨by simp [hfault, hf], by simp [hcode], by simp [hhist]⟩

/-- A spurious wake, as the parameter and the free value of log 28 allow it (42_sleep.md R186). -/
theorem envWakeStep_eq (s : State) :
    envWakeStep s =
      if s.cfg.spuriousWake = true ∧ s.fgWaiting = true ∧ (s.fault = false ∨ s.cfg.faultedWake = true) then
        { s with fgWaiting := false }
      else s := by
  simp [envWakeStep, and_assoc]

/-- Settles O25. -/
theorem waitPrimitive : Obligations.WaitPrimitive := by
  refine ⟨?latchSet, ?latchClear, ?notLatched, ?woken, fun s hm hw => step_of_held hm (.inr (.inr (.inr hw))), ?wake⟩
  case latchSet => intro s hlatch hev; simp [waitStep, hlatch, hev]
  case latchClear => intro s hlatch hev; simp [waitStep, hlatch, hev]
  case notLatched => intro s hlatch; simp [waitStep, hlatch]
  case woken => intro s hw; simp [waitStep, hw]
  case wake =>
    intro s hm
    rw [step_eq, hm, moveStep, envWakeStep_eq]
    simp

end Sys2Proof.Machine
end

section
/-! SUPPORT. What a micro-step of a command writes, said once: the effect it has on the state, with who may have it, and the
way it concludes (`exec_cases`). -/

namespace Sys2Proof.Machine

/-! ## Who writes what -/

/-- The commands that run the body of SLP.TIMEOUT on pool timer 0 (42_sleep.md R187, R189, 43_startup.md R225). -/
def runsSleepBody : Instr → Bool
  | .slpTimeout _ | .slpDuration _ | .hfStartDelay => true
  | _ => false

/-- The commands that take the extended time (40_clock.md R106). -/
def asksTime : Instr → Bool
  | .clkNow | .tmrStart _ _ _ | .taskSched _ _ => true
  | i => runsSleepBody i

/-- The commands that write the wake reason: by the arbitrated port or by the clear port (42_sleep.md R183, R184). -/
def writesWake : Instr → Bool
  | .postMsg | .postBrownout | .lfStart | .hfStartIrq => true
  | i => runsSleepBody i

/-- The oscillator a command requests (43_startup.md R222). -/
def requestedOsc : Instr → Option Osc
  | .lfStart => some .lf
  | .hfStartDelay | .hfStartIrq => some .hf
  | _ => none

/-- The pool timer a command works on (41_timer.md R145, R146, 42_sleep.md R187). -/
def timerOf (n : PoolSize) : Instr → Option PoolIx
  | .tmrStart idx _ _ | .tmrCancel idx => poolIx? n idx
  | .slpTimeout _ | .slpDuration _ | .hfStartDelay => some .t0
  | _ => none

/-- The compare channel a command works on (41_timer.md R142). -/
def channelOf (n : PoolSize) : Instr → Option ChIx
  | .taskSched _ _ => some .ch3
  | i => (timerOf n i).map PoolIx.chan

/-- The callback with which a command takes its pool timer (41_timer.md R145, 42_sleep.md R187). -/
def takenWith : Instr → Option (BitVec 2)
  | .tmrStart _ cb _ => some cb
  | i => if runsSleepBody i then some 0 else none

/-- The executing list stands before the commit of an arm of `ch` (41_timer.md R143 S5). -/
def State.BeforeCommit (s : State) (ch : ChIx) : Prop :=
  ∃ f, s.frame = some f ∧ f.commits s.cfg.nTimers = some ch

/-- The executing list stands before the last micro-step of a stop of timer `j` (41_timer.md R147 S3). -/
def State.BeforeFree (s : State) (j : PoolIx) : Prop :=
  ∃ f, s.frame = some f ∧ f.frees s.cfg.nTimers = some j

/-- `u` is `s` with one effect that a micro-step of command `i` may have; the bookkeeping of its list is left out. -/
inductive Effect (i : Instr) (s : State) : State → Prop
  | same : Effect i s s
  | answer (v : BitVec 64) (h : isQuery i = true) : Effect i s { s with res := v }
  | query (v : Time) (h : asksTime i = true) : Effect i s { s with lastNow := v }
  | answerTime (v : Time) (w : BitVec 64) (h : i = .clkNow) : Effect i s { s with lastNow := v, res := w }
  | start (h : i = .clkStart) : Effect i s s.startClock
  | rebase (h : i = .clkReset0) : Effect i s { s with ovf := 0, lastNow := 0 }
  | sane (m : Ticks) (h : i = .slpSetSane m) : Effect i s { s with sane := m }
  | compare (ch : ChIx) (v : Ticks) (ha : armsATimer i = true) (hc : channelOf s.cfg.nTimers i = some ch) :
      Effect i s (s.writeCompare ch v)
  | commit (ch : ChIx) (d t0 : Ticks) (ha : armsATimer i = true) (hc : channelOf s.cfg.nTimers i = some ch)
      (hb : s.BeforeCommit ch) : Effect i s (s.commitArm ch d t0)
  | take (j : PoolIx) (cb : BitVec 2) (hj : timerOf s.cfg.nTimers i = some j) (hcb : takenWith i = some cb)
      (hu : (s.timer j).inUse = false) :
      Effect i s ((s.setTimer j { inUse := true, expired := false, cbId := cb }).setChan j.chan
        { s.chan j.chan with inten := false })
  | takeTask (id : BitVec 2) (d : Ticks) (h : i = .taskSched id d) (hu : s.taskInUse = false) :
      Effect i s ({ s with taskInUse := true, taskId := id, taskExpired := false }.setChan .ch3
        { s.chan .ch3 with inten := false })
  | disarm (j : PoolIx) (hj : timerOf s.cfg.nTimers i = some j) :
      Effect i s (s.setChan j.chan { s.chan j.chan with inten := false })
  | clearEvent (j : PoolIx) (hj : timerOf s.cfg.nTimers i = some j) :
      Effect i s (s.setChan j.chan { s.chan j.chan with evt := false })
  | free (j : PoolIx) (hj : timerOf s.cfg.nTimers i = some j) (hb : s.BeforeFree j) :
      Effect i s (s.setTimer j { s.timer j with inUse := false })
  | wake (w : WakeReason) (h : writesWake i = true) : Effect i s { s with wake := w }
  | wait (a b : Bool) (h : waitsFor i = true) : Effect i s { s with evLatch := a, fgWaiting := b }
  | request (x : Osc) (h : requestedOsc i = some x) : Effect i s (s.startReq x)
  | enable (a b : Bool) (h : i = .lfStart ∨ i = .hfStartIrq) : Effect i s { s with intenLf := a, intenHf := b }

/-- `t` is the state after a micro-step of command `i`: its effect is done, and it stays under execution at a label of its
own, or it completes; or nothing is done and a fault is raised (30_encoding.md R82). `FG_WAITING` moves only where the command
goes to S2 of `WAIT` (42_sleep.md R186). -/
inductive MicroStep (i : Instr) (s : State) : State → Prop
  | held {u : State} (l : Label) (he : Effect i s u) (hl : l.belongsTo i = true)
      (hw : u.fgWaiting = s.fgWaiting ∨ l.inWait = true) : MicroStep i s (u.hold { cmd := i, label := l })
  | done {u : State} (he : Effect i s u) (hw : u.fgWaiting = s.fgWaiting) : MicroStep i s u.complete
  | fault (c : FaultCode) (hc : c ≠ .none) : MicroStep i s (s.raiseFault c)

/-! ## The operations inside the commands -/

/-- The micro-step `m` of an operation, whose labels command `i` holds as `into`, has an effect of `i` on `s`. -/
def Micro.EffectOf {ℓ α : Type} (i : Instr) (s : State) (into : ℓ → Label) : Micro ℓ α → Prop :=
  Micro.Sat
    (fun l u => Effect i s u ∧ (into l).belongsTo i = true ∧ (u.fgWaiting = s.fgWaiting ∨ (into l).inWait = true))
    (fun _ u => Effect i s u ∧ u.fgWaiting = s.fgWaiting) (fun c u => c ≠ .none ∧ u = s)

section

variable {i : Instr} {s : State}

/-- A caller that only goes on at its own next label when the operation returns. -/
theorem Micro.EffectOf.call_goto {ℓ μ α β : Type} {m : Micro ℓ α} {into : ℓ → μ} {next : α → μ} {outer : μ → Label}
    (h : m.EffectOf i s fun l => outer (into l)) (hn : ∀ v, (outer (next v)).belongsTo i = true) :
    (m.call into fun v u => .goto (next v) u : Micro μ β).EffectOf i s outer :=
  Micro.Sat.call h (fun _ _ h => h) (fun v _ ⟨he, hw⟩ => ⟨he, hn v, .inl hw⟩) fun _ _ h => h

/-- A caller that returns when the operation returns. -/
theorem Micro.EffectOf.call_ret {ℓ μ α β : Type} {m : Micro ℓ α} {into : ℓ → μ} {outer : μ → Label} {val : α → β}
    (h : m.EffectOf i s fun l => outer (into l)) :
    (m.call into fun v u => .ret (val v) u : Micro μ β).EffectOf i s outer :=
  Micro.Sat.call h (fun _ _ h => h) (fun _ _ h => h) fun _ _ h => h

/-- A command whose result is a further effect, or none. -/
theorem Micro.EffectOf.settle {ℓ α : Type} {m : Micro ℓ α} {into : ℓ → Label} (h : m.EffectOf i s into) :
    MicroStep i s (m.settle i into fun _ u => u) :=
  Micro.Sat.settle h (fun l _ ⟨he, hl, hw⟩ => .held (into l) he hl hw) (fun _ _ ⟨he, hw⟩ => .done he hw)
    (by rintro c u ⟨hc, rfl⟩; exact .fault c hc)

theorem foregroundOnly_effectOf {ℓ α : Type} {m : Micro ℓ α} {into : ℓ → Label} (h : m.EffectOf i s into) :
    (foregroundOnly s m).EffectOf i s into := by
  unfold foregroundOnly
  split
  · exact ⟨by decide, rfl⟩
  · exact h

theorem withPoolIx_effectOf {ℓ α : Type} {idx : BitVec 2} {m : PoolIx → Micro ℓ α} {into : ℓ → Label}
    (h : ∀ j, poolIx? s.cfg.nTimers idx = some j → (m j).EffectOf i s into) :
    (withPoolIx idx s m).EffectOf i s into := by
  unfold withPoolIx
  split
  · exact h _ ‹_›
  · exact ⟨by decide, rfl⟩

theorem nowStep_effectOf {into : NowLabel → Label} (hi : asksTime i = true) (hl : ∀ l, (into l).belongsTo i = true)
    (l : NowLabel) : (nowStep l s).EffectOf i s into := by
  cases l with
  | s1 => exact ⟨.same, hl _, .inl rfl⟩
  | s2 a => exact ⟨.same, hl _, .inl rfl⟩
  | s3 a low =>
    simp only [nowStep, recordNow]
    split
    · split
      · exact ⟨by decide, rfl⟩
      · exact ⟨.query _ hi, rfl⟩
    · exact ⟨.same, hl _, .inl rfl⟩

theorem armStep_effectOf {into : ArmLabel → Label} {ch : ChIx} (ha : armsATimer i = true) (ht : asksTime i = true)
    (hc : channelOf s.cfg.nTimers i = some ch) (hl : ∀ l, (into l).belongsTo i = true) (d : Ticks) {l : ArmLabel}
    (hb : ∀ t0, l = .commit t0 → s.BeforeCommit ch) : (armStep ch d l s).EffectOf i s into := by
  cases l with
  | now l => exact (nowStep_effectOf ht (fun l => hl (.now l)) l).call_goto fun _ => hl _
  | compare t0 => exact ⟨.compare ch _ ha hc, hl _, .inl rfl⟩
  | commit t0 => exact ⟨.commit ch d t0 ha hc (hb t0 rfl), by simp⟩

theorem stopStep_effectOf {into : StopLabel → Label} {j : PoolIx} (hj : timerOf s.cfg.nTimers i = some j)
    (hl : ∀ l, (into l).belongsTo i = true) {l : StopLabel} (hb : l = .s3 → s.BeforeFree j) :
    (stopStep j l s).EffectOf i s into := by
  cases l with
  | s1 => exact ⟨.disarm j hj, hl _, .inl rfl⟩
  | s2 => exact ⟨.clearEvent j hj, hl _, .inl rfl⟩
  | s3 => exact ⟨.free j hj (hb rfl), rfl⟩

theorem startCheck_effectOf {into : ArmLabel → Label} {j : PoolIx} {cb : BitVec 2}
    (hj : timerOf s.cfg.nTimers i = some j) (hcb : takenWith i = some cb) (hl : ∀ l, (into l).belongsTo i = true) :
    (startCheck j cb s).EffectOf i s into := by
  unfold startCheck
  split
  · split
    · exact ⟨by decide, rfl⟩
    · exact ⟨.same, rfl⟩
  · exact ⟨.take j cb hj hcb (by simp_all), hl _, .inl rfl⟩

theorem schedCheck_effectOf {id : BitVec 2} {d : Ticks} :
    (schedCheck id s).EffectOf (.taskSched id d) s .taskSched := by
  unfold schedCheck
  split
  · split
    · exact ⟨by decide, rfl⟩
    · exact ⟨.same, rfl⟩
  · exact ⟨.takeTask id d rfl (by simp_all), rfl, .inl rfl⟩

theorem waitStep_effectOf {into : WaitLabel → Label} (hi : waitsFor i = true) (hl : ∀ l, (into l).belongsTo i = true)
    (hw : (into .s2).inWait = true) (l : WaitLabel) : (waitStep l s).EffectOf i s into := by
  cases l with
  | s1 =>
    simp only [waitStep]
    split
    · split
      · exact ⟨.wait _ s.fgWaiting hi, rfl⟩
      · exact ⟨.wait s.evLatch true hi, hl _, .inr hw⟩
    · exact ⟨.wait false true hi, hl _, .inr hw⟩
  | s2 =>
    simp only [waitStep]
    split
    · exact ⟨.same, hl _, .inl rfl⟩
    · exact ⟨.wait false s.fgWaiting hi, rfl⟩

theorem saneCheck_effectOf {ℓ : Type} {into : ℓ → Label} (t : Ticks) :
    (saneCheck t s : Micro ℓ Ticks).EffectOf i s into := by
  unfold saneCheck
  split
  · exact ⟨.same, rfl⟩
  · split
    · exact ⟨by decide, rfl⟩
    · exact ⟨.same, rfl⟩

/-! ## The bodies of the waiting commands -/

theorem runsSleepBody_cases {p : Instr → Prop} (h : runsSleepBody i = true) (ht : ∀ t, p (.slpTimeout t))
    (hd : ∀ d, p (.slpDuration d)) (hh : p .hfStartDelay) : p i := by
  cases i with
  | slpTimeout t => exact ht t
  | slpDuration d => exact hd d
  | hfStartDelay => exact hh
  | _ => cases h

theorem waitsFor_of_runsSleepBody (h : runsSleepBody i = true) : waitsFor i = true :=
  runsSleepBody_cases (p := (waitsFor · = true)) h (fun _ => rfl) (fun _ => rfl) rfl
theorem armsATimer_of_runsSleepBody (h : runsSleepBody i = true) : armsATimer i = true :=
  runsSleepBody_cases (p := (armsATimer · = true)) h (fun _ => rfl) (fun _ => rfl) rfl
theorem asksTime_of_runsSleepBody (h : runsSleepBody i = true) : asksTime i = true :=
  runsSleepBody_cases (p := (asksTime · = true)) h (fun _ => rfl) (fun _ => rfl) rfl
theorem writesWake_of_runsSleepBody (h : runsSleepBody i = true) : writesWake i = true :=
  runsSleepBody_cases (p := (writesWake · = true)) h (fun _ => rfl) (fun _ => rfl) rfl
theorem takenWith_of_runsSleepBody (h : runsSleepBody i = true) : takenWith i = some 0 :=
  runsSleepBody_cases (p := (takenWith · = some 0)) h (fun _ => rfl) (fun _ => rfl) rfl
theorem timerOf_of_runsSleepBody (n : PoolSize) (h : runsSleepBody i = true) : timerOf n i = some .t0 :=
  runsSleepBody_cases (p := (timerOf n · = some .t0)) h (fun _ => rfl) (fun _ => rfl) rfl
theorem channelOf_of_runsSleepBody (n : PoolSize) (h : runsSleepBody i = true) : channelOf n i = some .ch0 :=
  runsSleepBody_cases (p := (channelOf n · = some .ch0)) h (fun _ => rfl) (fun _ => rfl) rfl

/-- A micro-step of the body of SLP.TIMEOUT, in whichever of its commands (42_sleep.md R187). -/
theorem sleepStep_effectOf {into : SleepLabel → Label} (hi : runsSleepBody i = true)
    (hl : ∀ l, (into l).belongsTo i = true) (hw : (into (.wait .s2)).inWait = true) (t : Ticks) {l : SleepLabel}
    (hc : l.commits = true → s.BeforeCommit .ch0) (hf : l.frees = true → s.BeforeFree .t0) :
    (sleepStep t l s).EffectOf i s into := by
  have hj := timerOf_of_runsSleepBody s.cfg.nTimers hi
  cases l with
  | clear => exact ⟨.wake _ (writesWake_of_runsSleepBody hi), hl _, .inl rfl⟩
  | sane => exact (saneCheck_effectOf t).call_goto fun _ => hl _
  | start t =>
    exact (startCheck_effectOf hj (takenWith_of_runsSleepBody hi) fun _ => hl _).call_goto fun _ => hl _
  | arm t l =>
    refine (armStep_effectOf (armsATimer_of_runsSleepBody hi) (asksTime_of_runsSleepBody hi)
      (channelOf_of_runsSleepBody _ hi) (fun _ => hl _) t ?_).call_goto fun _ => hl _
    rintro t0 rfl
    exact hc rfl
  | wait l => exact (waitStep_effectOf (waitsFor_of_runsSleepBody hi) (fun _ => hl _) hw l).call_goto fun _ => hl _
  | stop l =>
    refine (stopStep_effectOf hj (fun _ => hl _) ?_).call_ret
    rintro rfl
    exact hf rfl

/-- A micro-step of the body of SLP.DURATION, in either of its commands (42_sleep.md R189, 43_startup.md R225). -/
theorem durationStep_effectOf {into : DurationLabel → Label} (hi : runsSleepBody i = true)
    (hl : ∀ l, (into l).belongsTo i = true) (hw : ∀ l, (into l).inWait = l.inWait) (d : Ticks) {l : DurationLabel}
    (hc : ∀ start t l', l = .sleep start t l' → l'.commits = true → s.BeforeCommit .ch0)
    (hf : ∀ start t l', l = .sleep start t l' → l'.frees = true → s.BeforeFree .t0) :
    (durationStep d l s).EffectOf i s into := by
  have ht := asksTime_of_runsSleepBody hi
  cases l with
  | begin l => exact (nowStep_effectOf ht (fun _ => hl _) l).call_goto fun _ => hl _
  | again start l => exact (nowStep_effectOf ht (fun _ => hl _) l).call_goto fun _ => hl _
  | sleep start t l =>
    exact (sleepStep_effectOf hi (fun _ => hl _) (hw _) t (hc start t l rfl) (hf start t l rfl)).call_goto fun _ => hl _
  | test start =>
    simp only [durationStep]
    split
    · exact ⟨.same, rfl⟩
    · exact ⟨.same, hl _, .inl rfl⟩

theorem untilStep_effectOf {into : UntilLabel → Label} (hi : waitsFor i = true) (hl : ∀ l, (into l).belongsTo i = true)
    (hw : (into (.wait .s2)).inWait = true) (r : WakeReason) (l : UntilLabel) :
    (untilStep r l s).EffectOf i s into := by
  cases l with
  | wait l => exact (waitStep_effectOf hi (fun _ => hl _) hw l).call_goto fun _ => hl _
  | test =>
    simp only [untilStep]
    split
    · exact ⟨.same, rfl⟩
    · exact ⟨.same, hl _, .inl rfl⟩

theorem lfStep_effectOf (l : LfLabel) : (lfStep l s).EffectOf .lfStart s .lfStart := by
  cases l with
  | enable => exact ⟨.enable true s.intenHf (.inl rfl), rfl, .inl rfl⟩
  | request => exact ⟨.request .lf rfl, rfl, .inl (by simp)⟩
  | loop l => exact (untilStep_effectOf rfl (fun _ => rfl) rfl _ l).call_goto fun _ => rfl
  | disable => exact ⟨.enable false s.intenHf (.inl rfl), rfl⟩

theorem hfCheck_effectOf : (hfCheck s).EffectOf .hfStartIrq s .hfStartIrq := by
  unfold hfCheck
  split
  · exact ⟨by decide, rfl⟩
  · exact ⟨.same, rfl, .inl rfl⟩

theorem hfIrqStep_effectOf (l : HfIrqLabel) : (hfIrqStep l s).EffectOf .hfStartIrq s .hfStartIrq := by
  cases l with
  | clear => exact ⟨.wake _ rfl, rfl, .inl rfl⟩
  | enable => exact ⟨.enable s.intenLf true (.inr rfl), rfl, .inl rfl⟩
  | request => exact ⟨.request .hf rfl, rfl, .inl (by simp)⟩
  | loop l => exact (untilStep_effectOf rfl (fun _ => rfl) rfl _ l).call_goto fun _ => rfl
  | disable => exact ⟨.enable s.intenLf false (.inr rfl), rfl⟩

/-- Every cell of the arbitration table that faults has a fault code (42_sleep.md R181). -/
theorem code_ne_none_of_arbTable {w : WakeReason} {p : Post} {c : FaultCode} (h : arbTable w p = .fault c) : c ≠ .none := by
  rintro rfl
  cases p <;> cases w <;> simp [arbTable] at h

theorem post_microStep {p : Post} (hi : writesWake i = true) : MicroStep i s (s.post p) := by
  unfold State.post arbWrite
  cases h : arbTable s.wake p with
  | write => exact .done (.wake p.reason hi) rfl
  | keep => exact .done .same rfl
  | fault c => exact .fault c (code_ne_none_of_arbTable h)

theorem answer_microStep (hi : isQuery i = true) (v : BitVec 64) : MicroStep i s (s.answer v) :=
  .done (.answer v hi) rfl

/-! ## The commands -/

/-- A label under which a command goes on is that of the executing list's frame. -/
theorem State.frame_of_labelOf {l : Label} (h : s.labelOf i = some l) : s.frame = some { cmd := i, label := l } := by
  unfold State.labelOf at h
  split at h
  · rename_i f hf
    split at h
    · rename_i hcmd
      rw [hf, ← hcmd, ← Option.some.inj h]
    · cases h
  · cases h

theorem State.beforeCommit_of_labelOf {l : Label} {ch : ChIx} (h : s.labelOf i = some l)
    (hc : ({ cmd := i, label := l } : CmdFrame).commits s.cfg.nTimers = some ch) : s.BeforeCommit ch :=
  ⟨_, State.frame_of_labelOf h, hc⟩

theorem State.beforeFree_of_labelOf {l : Label} {j : PoolIx} (h : s.labelOf i = some l)
    (hc : ({ cmd := i, label := l } : CmdFrame).frees s.cfg.nTimers = some j) : s.BeforeFree j :=
  ⟨_, State.frame_of_labelOf h, hc⟩

theorem clkNow_microStep (l : NowLabel) :
    MicroStep .clkNow s ((nowStep l s).settle .clkNow .clkNow fun t s => { s with res := t.setWidth 64 }) :=
  Micro.Sat.settle (nowStep_sat l s)
    (by rintro l u rfl; exact .held (.clkNow l) .same rfl (.inl rfl))
    (by rintro v u rfl; exact .done (.answerTime v _ rfl) rfl)
    (by rintro c u ⟨rfl, rfl⟩; exact .fault _ (by decide))

theorem tmrStart_microStep {idx cb : BitVec 2} {d : Ticks} {t : State} (h : execTmrStart idx cb d s = .next t) :
    MicroStep (.tmrStart idx cb d) s t := by
  cases h
  refine (withPoolIx_effectOf fun j hj => ?_).settle
  split
  · rename_i l hl
    refine armStep_effectOf (i := .tmrStart idx cb d) rfl rfl (congrArg (Option.map PoolIx.chan) hj) (fun _ => rfl) d ?_
    rintro t0 rfl
    exact State.beforeCommit_of_labelOf hl (by simp [CmdFrame.commits, hj])
  · exact startCheck_effectOf hj rfl fun _ => rfl

theorem tmrCancel_microStep {idx : BitVec 2} {t : State} (h : execTmrCancel idx s = .next t) :
    MicroStep (.tmrCancel idx) s t := by
  cases h
  refine (withPoolIx_effectOf fun j hj => ?_).settle
  split
  · rename_i l hl
    refine stopStep_effectOf (i := .tmrCancel idx) hj (fun _ => rfl) ?_
    rintro rfl
    exact State.beforeFree_of_labelOf hl (by simp [CmdFrame.frees, hj])
  · exact ⟨.same, rfl, .inl rfl⟩

theorem taskSched_microStep {id : BitVec 2} {d : Ticks} {t : State} (h : execTaskSched id d s = .next t) :
    MicroStep (.taskSched id d) s t := by
  cases h
  refine Micro.EffectOf.settle ?_
  split
  · rename_i l hl
    refine armStep_effectOf rfl rfl rfl (fun _ => rfl) d ?_
    rintro t0 rfl
    exact State.beforeCommit_of_labelOf hl rfl
  · exact schedCheck_effectOf

theorem slpTimeout_microStep {d : Ticks} {t : State} (h : execSlpTimeout d s = .next t) :
    MicroStep (.slpTimeout d) s t := by
  cases h
  refine (foregroundOnly_effectOf ?_).settle
  split
  · rename_i l hl
    exact sleepStep_effectOf rfl (fun _ => rfl) rfl d
      (fun h => State.beforeCommit_of_labelOf hl (by simp [CmdFrame.commits, h]))
      (fun h => State.beforeFree_of_labelOf hl (by simp [CmdFrame.frees, h]))
  · exact sleepStep_effectOf rfl (fun _ => rfl) rfl d (by simp [SleepLabel.commits]) (by simp [SleepLabel.frees])

theorem slpDuration_microStep {d : Ticks} {t : State} (h : execSlpDuration d s = .next t) :
    MicroStep (.slpDuration d) s t := by
  cases h
  refine (foregroundOnly_effectOf ?_).settle
  split
  · rename_i l hl
    exact durationStep_effectOf rfl (fun _ => rfl) (fun _ => rfl) d
      (by rintro start t l' rfl h; exact State.beforeCommit_of_labelOf hl (by simp [CmdFrame.commits, h]))
      (by rintro start t l' rfl h; exact State.beforeFree_of_labelOf hl (by simp [CmdFrame.frees, h]))
  · exact ⟨.same, rfl, .inl rfl⟩

theorem hfStartDelay_microStep {t : State} (h : execHfStartDelay s = .next t) : MicroStep .hfStartDelay s t := by
  cases h
  refine (foregroundOnly_effectOf ?_).settle
  split
  · rename_i l hl
    exact durationStep_effectOf rfl (fun _ => rfl) (fun _ => rfl) _
      (by rintro start t l' rfl h; exact State.beforeCommit_of_labelOf hl (by simp [CmdFrame.commits, h]))
      (by rintro start t l' rfl h; exact State.beforeFree_of_labelOf hl (by simp [CmdFrame.frees, h]))
  · exact ⟨.request .hf rfl, rfl, .inl (by simp)⟩

end

/-- What a micro-step of any command does: one of its effects and its conclusion, or a fault. -/
theorem exec_microStep {i : Instr} {s t : State} (h : exec i s = .next t) : MicroStep i s t := by
  cases i
  case wakeRead => cases h; exact answer_microStep rfl _
  case postMsg => cases h; exact post_microStep rfl
  case postBrownout => cases h; exact post_microStep rfl
  case lfStart =>
    cases h
    refine (foregroundOnly_effectOf ?_).settle
    split
    · exact lfStep_effectOf _
    · exact ⟨.wake _ rfl, rfl, .inl rfl⟩
  case hfStartDelay => exact hfStartDelay_microStep h
  case hfStartIrq =>
    cases h
    refine (foregroundOnly_effectOf ?_).settle
    split
    · exact hfIrqStep_effectOf _
    · exact hfCheck_effectOf
  case clkStart =>
    cases h
    split
    · exact .fault _ (by decide)
    · exact .done (.start rfl) (by simp)
  case clkNow => cases h; exact clkNow_microStep _
  case clkReset0 => cases h; exact .done (.rebase rfl) rfl
  case clkIsRunning => cases h; exact answer_microStep rfl _
  case clkWaitTick =>
    cases h
    refine Micro.EffectOf.settle ?_
    unfold waitTickStep
    split
    · exact ⟨.same, rfl, .inl rfl⟩
    · split
      · exact ⟨.same, rfl, .inl rfl⟩
      · exact ⟨.same, rfl⟩
  case tmrStart => exact tmrStart_microStep h
  case tmrCancel => exact tmrCancel_microStep h
  case tmrIsStarted =>
    cases h
    split
    · exact answer_microStep rfl _
    · exact .fault _ (by decide)
  case tmrIsExpired =>
    cases h
    split
    · exact answer_microStep rfl _
    · exact .fault _ (by decide)
  case taskSched => exact taskSched_microStep h
  case slpTimeout => exact slpTimeout_microStep h
  case slpDuration => exact slpDuration_microStep h
  case slpUntil =>
    cases h
    refine (foregroundOnly_effectOf ?_).settle
    split
    · exact untilStep_effectOf rfl (fun _ => rfl) rfl _ _
    · exact ⟨.same, rfl, .inl rfl⟩
  case slpIsTimer => cases h; exact answer_microStep rfl _
  case slpSetSane m => cases h; exact .done (.sane m rfl) rfl

end Sys2Proof.Machine
end

section
/-! SUPPORT. What a micro-step of a handler does, said once: the effect it has on the state, and the way it concludes
(`handlerStep_micro`). -/

namespace Sys2Proof.Machine

/-- `u` is `s` with one effect that a micro-step of the handler `f` may have; `ISR_FRAME` and the fault are left out. -/
inductive HandlerEffect (f : IsrFrame) (s : State) : State → Prop
  | same : HandlerEffect f s s
  | overflow (h : f.label = .ovfCount) : HandlerEffect f s s.countOverflow
  | scan (j : PoolIx) : HandlerEffect f s (s.scanIndex j)
  | disarm (j : PoolIx) : HandlerEffect f s (s.setChan j.chan { s.chan j.chan with inten := false })
  | clearEvent (j : PoolIx) : HandlerEffect f s (s.setChan j.chan { s.chan j.chan with evt := false })
  | free (j : PoolIx) (cb : BitVec 2) (todo : List PoolIx) (h : f.label = .expireStop j cb .s3 todo) :
      HandlerEffect f s (s.setTimer j { s.timer j with inUse := false })
  | scanTask : HandlerEffect f s s.scanTask
  | runTask (id : BitVec 2) :
      HandlerEffect f s ((s.setChan .ch3 { s.chan .ch3 with inten := false, evt := false }).emit (.taskRun id))
  | release (h : f.label = .taskDone) : HandlerEffect f s { s with taskInUse := false }
  | started (a b : Bool) : HandlerEffect f s { s with evtLfStarted := a, evtHfStarted := b }
  | wake (w : WakeReason) : HandlerEffect f s { s with wake := w }
  | callback (e : Event) : HandlerEffect f s (s.emit e)
  | callbackWake (e : Event) (w : WakeReason) : HandlerEffect f s { s.emit e with wake := w }

/-- `t` is the state after a micro-step of the handler `f`: its effect is done, and it goes on with the same lists, or invokes
a list, or stays where it is, or raises a fault; or it exits (60_exceptions.md R253, R255 to R261). -/
inductive HandlerMicro (f : IsrFrame) (s : State) : State → Prop
  | goes {u : State} (g : IsrFrame) (l : HandlerLabel) (he : HandlerEffect f s u) (hg : g.stack = f.stack) :
      HandlerMicro f s (u.atHandler g l)
  | invokes {u : State} (l : HandlerLabel) (id : ListId) (he : HandlerEffect f s u) :
      HandlerMicro f s (u.pushList f l id)
  | stays : HandlerMicro f s s
  | fault {u : State} (c : FaultCode) (he : HandlerEffect f s u) (hc : c ≠ .none) :
      HandlerMicro f s (u.raiseFault c)
  | exits (h : f.label = .exit) : HandlerMicro f s s.leave

section

variable (f : IsrFrame) (s : State)

theorem postFrom_micro (next : HandlerLabel) (p : Post) : HandlerMicro f s (postFrom f next p s) := by
  unfold postFrom arbWrite
  cases h : arbTable s.wake p with
  | write => exact .goes f next (.wake p.reason) rfl
  | keep => exact .goes f next .same rfl
  | fault c => exact .fault c .same (code_ne_none_of_arbTable h)

theorem dispatch_micro (next : HandlerLabel) (j : PoolIx) (cb : BitVec 2) (tag : CallbackTag) :
    HandlerMicro f s (dispatch f next j cb tag s) := by
  have he : HandlerEffect f s (s.emit (.callback j cb tag)) := .callback _
  unfold dispatch
  dsimp only
  split
  · unfold arbWrite
    cases h : arbTable (s.emit (.callback j cb tag)).wake (tagPost tag) with
    | write => exact .goes f next (.callbackWake _ _) rfl
    | keep => exact .goes f next he rfl
    | fault c => exact .fault c he (code_ne_none_of_arbTable h)
  · exact .invokes next _ he

theorem handleTask_micro : HandlerMicro f s (handleTask f s) := by
  unfold handleTask
  split
  · exact .invokes _ _ (.runTask _)
  · exact .goes f _ .same rfl

theorem expireStop_micro {j : PoolIx} {cb : BitVec 2} {l : StopLabel} {todo : List PoolIx}
    (h : f.label = .expireStop j cb l todo) : HandlerMicro f s (handlerStep f s) := by
  cases l <;> simp only [handlerStep, h, stopStep]
  case s1 => exact .goes f _ (.disarm j) rfl
  case s2 => exact .goes f _ (.clearEvent j) rfl
  case s3 => exact .goes f _ (.free j cb todo h) rfl

/-- What a micro-step of any handler does: one of its effects and its conclusion, or the exit. -/
theorem handlerStep_micro : HandlerMicro f s (handlerStep f s) := by
  by_cases hstop : ∃ j cb l todo, f.label = .expireStop j cb l todo
  · obtain ⟨j, cb, l, todo, h⟩ := hstop
    exact expireStop_micro f s h
  unfold handlerStep
  split
  case h_1 h => exact .goes f _ (.overflow h) rfl
  case h_2 => split; exacts [.stays, .goes f _ .same rfl]
  case h_3 => exact .goes f _ .same rfl
  case h_4 j todo _ => exact .goes f _ (.scan j) rfl
  case h_5 => exact .goes { f with handled := s.dueSet } _ .same rfl
  case h_6 => exact .goes f _ .same rfl
  case h_7 => split; exacts [.goes f _ .same rfl, .goes f _ .same rfl]
  case h_8 j cb l todo h => exact absurd ⟨j, cb, l, todo, h⟩ hstop
  case h_9 => exact dispatch_micro f s _ _ _ _
  case h_10 => split; exacts [dispatch_micro f s _ _ _ _, .goes f _ .same rfl]
  case h_11 => exact .goes f _ .scanTask rfl
  case h_12 => exact handleTask_micro f s
  case h_13 h => exact .goes f _ (.release h) rfl
  case h_14 => exact .goes f _ (.started _ s.evtHfStarted) rfl
  case h_15 => split; exacts [postFrom_micro f s _ _, .goes f _ .same rfl]
  case h_16 => exact .goes f _ (.started s.evtLfStarted _) rfl
  case h_17 => split; exacts [postFrom_micro f s _ _, .goes f _ .same rfl]
  case h_18 => exact postFrom_micro f s _ _
  case h_19 => exact postFrom_micro f s _ _
  case h_20 h => exact .exits h

end

end Sys2Proof.Machine
end

section
/-! SUPPORT. The invariant of the machine: it holds at reset, and every step keeps it. The oscillators, the overflow event, the
clock's start and the wake reason are kept write by write; where the two sequencers stand and what fault is recorded is kept
micro-step by micro-step. -/

namespace Sys2Proof.Machine

/-! ## The parts of the invariant, spelled out -/

theorem frameFits_iff {words : List Word} {pc : Offset} {f : CmdFrame} :
    frameFits words pc f = true ↔
      f.label.belongsTo f.cmd = true ∧ ∃ w, wordAt words pc = some w ∧ decode w = .ok f.cmd := by
  unfold frameFits
  cases wordAt words pc with
  | none => simp
  | some w => cases h : decode w <;> simp [h, Except.toOption]

theorem State.fgFits_iff {s : State} :
    s.fgFits = true ↔ s.pc.toNat % 4 = 0
      ∧ (∀ f, s.fgFrame = some f →
          frameFits s.fgWords s.pc f = true ∧ (s.fgWaiting = true → f.label.inWait = true))
      ∧ (s.fgFrame = none → s.fgWaiting = false ∧ s.cmdHeld = none) := by
  unfold State.fgFits
  cases s.fgFrame with
  | none => simp
  | some f => cases s.fgWaiting <;> simp

theorem listFits_iff {p : Params} {l : ListFrame} :
    listFits p l = true ↔ l.pc.toNat % 4 = 0
      ∧ ∀ c, l.frame = some c → frameFits (listWords p l.list) l.pc c = true ∧ waitsFor c.cmd = false := by
  unfold listFits
  cases l.frame <;> simp

theorem State.isrFits_of_some {s : State} {f : IsrFrame} (h : s.isrFrame = some f) :
    s.isrFits = true ↔
      s.isrActive = true ∧ f.stack.length ≤ 1 ∧ ∀ l ∈ f.stack, listFits s.cfg l = true := by
  simp [State.isrFits, h, and_assoc]

theorem State.faultFits_iff {s : State} : s.faultFits = true ↔ (s.faultCode = .none ↔ s.fault = false) := by
  cases hf : s.fault <;> simp [State.faultFits, hf]

/-- Where the two sequencers stand and what fault is recorded: the first three parts of the invariant. -/
def State.SeqFits (s : State) : Prop := s.fgFits = true ∧ s.isrFits = true ∧ s.faultFits = true

/-- The other parts of the invariant: the oscillators, the overflow event, the clock's start, the wake reason. -/
def State.DataFits (s : State) : Prop :=
  s.oscFits = true ∧ s.overflowFits = true ∧ s.startFits = true ∧ s.wake ≠ .unknown

theorem State.inv_iff {s : State} : s.Inv ↔ s.SeqFits ∧ s.DataFits := by
  simp [State.Inv, State.SeqFits, State.DataFits, and_assoc]

/-! ## The oscillators, the overflow event, the clock's start, the wake reason -/

theorem State.DataFits.set_wake {s : State} (h : s.DataFits) {w : WakeReason} (hw : w ≠ .unknown) :
    { s with wake := w }.DataFits := by
  obtain ⟨hosc, hovf, hstart, -⟩ := h
  exact ⟨hosc, hovf, hstart, hw⟩

theorem State.DataFits.startReq {s : State} (h : s.DataFits) (x : Osc) : (s.startReq x).DataFits := by
  obtain ⟨hosc, hovf, hstart, hwake⟩ := h
  refine ⟨?_, by simpa [State.overflowFits] using hovf, by simpa [State.startFits] using hstart, by simpa using hwake⟩
  cases x <;> simp only [State.startReq] <;> split
  case lf.isTrue hx => simp_all [State.oscFits]
  case hf.isTrue hx => simp_all [State.oscFits]
  all_goals exact hosc

theorem State.DataFits.startClock {s : State} (h : s.DataFits) : s.startClock.DataFits := by
  obtain ⟨hosc, -, -, hwake⟩ := h
  unfold State.startClock
  dsimp only
  split
  · rename_i hp
    exact ⟨hosc, rfl, by simp [State.startFits, hp], hwake⟩
  · exact ⟨hosc, rfl, rfl, hwake⟩

theorem State.DataFits.hold {s : State} (h : s.DataFits) (f : CmdFrame) : (s.hold f).DataFits := by
  simpa [State.DataFits, State.oscFits, State.overflowFits, State.startFits] using h

theorem State.DataFits.complete {s : State} (h : s.DataFits) : s.complete.DataFits := by
  simpa [State.DataFits, State.oscFits, State.overflowFits, State.startFits] using h

theorem State.DataFits.raiseFault {s : State} (h : s.DataFits) (c : FaultCode) : (s.raiseFault c).DataFits := by
  simpa [State.DataFits, State.oscFits, State.overflowFits, State.startFits] using h

theorem State.DataFits.issue {s : State} (h : s.DataFits) (w : Word) : (s.issue w).DataFits := by
  simpa [State.DataFits, State.oscFits, State.overflowFits, State.startFits] using h

theorem State.DataFits.takeMove {s : State} (h : s.DataFits) : s.takeMove.DataFits := by
  simpa [State.DataFits, State.oscFits, State.overflowFits, State.startFits] using h

/-- A clear is requested only of a set event (60_exceptions.md R256). -/
theorem State.DataFits.countOverflow {s : State} (h : s.DataFits) : s.countOverflow.DataFits := by
  obtain ⟨hosc, hovf, hstart, hwake⟩ := h
  unfold State.countOverflow
  split
  · exact ⟨hosc, by simp_all [State.overflowFits], hstart, hwake⟩
  · exact ⟨hosc, hovf, hstart, hwake⟩

/-- A started event may be taken back (60_exceptions.md R258). -/
theorem State.DataFits.clear_started {s : State} (h : s.DataFits) (a b : Bool) :
    { s with evtLfStarted := s.evtLfStarted && a, evtHfStarted := s.evtHfStarted && b }.DataFits := by
  obtain ⟨hosc, hrest⟩ := h
  refine ⟨?_, hrest⟩
  cases a <;> cases b <;> simp_all [State.oscFits]

theorem State.DataFits.tick {s : State} (h : s.DataFits) (d : Draws) : (s.tick d).DataFits := by
  obtain ⟨hosc, hovf, hrest⟩ := h
  refine ⟨hosc, ?_, hrest⟩
  by_cases hc : s.counter + 1 = 0
  · simp only [State.overflowFits, State.tick, if_pos hc]; rfl
  · simpa only [State.overflowFits, State.tick, if_neg hc] using hovf

theorem State.DataFits.settle {s : State} (h : s.DataFits) : (settleStep s).DataFits := by
  obtain ⟨hosc, hovf, hrest⟩ := h
  unfold settleStep
  split
  · exact ⟨hosc, rfl, hrest⟩
  · exact ⟨hosc, hovf, hrest⟩

/-- The event of a started oscillator comes with its running state (43_startup.md R221). -/
theorem State.DataFits.oscStep {s : State} (h : s.DataFits) (x : Osc) : (oscStep x s).DataFits := by
  obtain ⟨hosc, hrest⟩ := h
  cases x <;> simp only [Machine.oscStep] <;> split
  case lf.isTrue => exact ⟨by simp_all [State.oscFits], hrest⟩
  case hf.isTrue => exact ⟨by simp_all [State.oscFits], hrest⟩
  all_goals exact ⟨hosc, hrest⟩

theorem execClosed_dataFits : ExecClosed State.DataFits where
  lastNow _ _ h := h
  chan _ _ _ h := h
  timer _ _ _ h := h
  task _ _ _ _ h := h
  pend _ h := h
  wait _ _ _ h := h
  wake _ _ hw h := h.set_wake hw
  inten _ _ _ h := h
  osc _ x h := h.startReq x
  res _ _ h := h
  sane _ _ h := h
  start _ h := h.startClock
  rebase _ h := h
  hold _ f h := h.hold f
  complete _ h := h.complete
  fault _ c h := h.raiseFault c

theorem handlerClosed_dataFits : HandlerClosed State.DataFits where
  chan _ _ _ h := h
  timer _ _ _ h := h
  task _ _ _ h := h
  wake _ p h := h.set_wake (Post.reason_ne_unknown p)
  emit _ _ h := h
  fault _ c h := h.raiseFault c
  overflow _ h := h.countOverflow
  started _ a b h := h.clear_started a b
  frame _ _ _ h := h
  leave _ h := h

theorem agentClosed_dataFits : AgentClosed State.DataFits where
  enter _ _ h := h
  tick _ d h := h.tick d
  settle _ h := h.settle
  osc _ x h := h.oscStep x
  radio _ h := h
  power _ h := h
  envWake _ h := by unfold envWakeStep; split <;> exact h
  issue _ w h := h.issue w

theorem dataFits_step {s t : State} (hs : s.DataFits) (h : step s = .next t) : t.DataFits :=
  moveStep_closed execClosed_dataFits hs.takeMove handlerClosed_dataFits agentClosed_dataFits h

/-! ## What the effects leave to the bookkeeping -/

/-- `u` has the configuration, the place of both sequencers and the fault of `s`; `FG_WAITING` is left out. -/
def State.SameSeq (s u : State) : Prop :=
  u.cfg = s.cfg ∧ u.pc = s.pc ∧ u.fgFrame = s.fgFrame ∧ u.issued = s.issued ∧ u.cmdHeld = s.cmdHeld
    ∧ u.isrActive = s.isrActive ∧ u.isrFrame = s.isrFrame ∧ u.fault = s.fault ∧ u.faultCode = s.faultCode

theorem Effect.sameSeq {i : Instr} {s u : State} (h : Effect i s u) : s.SameSeq u := by
  cases h <;> simp [State.SameSeq]

theorem HandlerEffect.sameSeq {f : IsrFrame} {s u : State} (h : HandlerEffect f s u) :
    s.SameSeq u ∧ u.fgWaiting = s.fgWaiting := by
  cases h <;> simp [State.SameSeq]

theorem State.SameSeq.seqFits {s u : State} (h : s.SameSeq u) (hw : u.fgWaiting = s.fgWaiting) (hs : s.SeqFits) :
    u.SeqFits := by
  obtain ⟨hcfg, hpc, hframe, hissued, hheld, hactive, hisr, hfault, hcode⟩ := h
  simpa [State.SeqFits, State.fgFits, State.isrFits, State.faultFits, State.fgWords, hcfg, hpc, hframe, hissued, hheld,
    hactive, hisr, hfault, hcode, hw] using hs

/-! ## Where the sequencers stand: the writes of the bookkeeping -/

section

variable {s : State}

/-- A fault is recorded with its code, and nothing else of the bookkeeping moves (60_exceptions.md R243). -/
theorem State.SeqFits.raiseFault (h : s.SeqFits) {c : FaultCode} (hc : c ≠ .none) : (s.raiseFault c).SeqFits := by
  unfold State.raiseFault
  split
  · exact h
  · obtain ⟨hfg, hisr, -⟩ := h
    exact ⟨hfg, hisr, State.faultFits_iff.mpr (by simpa using hc)⟩

theorem State.SeqFits.not_waiting (h : s.SeqFits) (b : Bool) : { s with evLatch := b, fgWaiting := false }.SeqFits := by
  obtain ⟨hfg, hrest⟩ := h
  obtain ⟨hpc, hframe, hnone⟩ := State.fgFits_iff.mp hfg
  exact ⟨State.fgFits_iff.mpr ⟨hpc, fun f hf => ⟨(hframe f hf).1, by simp⟩, fun hf => ⟨rfl, (hnone hf).2⟩⟩, hrest⟩

theorem State.SeqFits.with_isrFrame (h : s.SeqFits) {g : IsrFrame} (ha : s.isrActive = true)
    (hlen : g.stack.length ≤ 1) (hall : ∀ l ∈ g.stack, listFits s.cfg l = true) :
    { s with isrFrame := some g }.SeqFits := by
  obtain ⟨hfg, -, hfault⟩ := h
  exact ⟨hfg, (State.isrFits_of_some rfl).mpr ⟨ha, hlen, hall⟩, hfault⟩

theorem listFits_fresh (p : Params) (id : ListId) : listFits p { list := id, pc := 0, frame := none } = true := by
  simp [listFits_iff]

theorem State.SeqFits.leave (h : s.SeqFits) : s.leave.SeqFits := by
  obtain ⟨hfg, -, hfault⟩ := h.not_waiting true
  exact ⟨hfg, rfl, hfault⟩

theorem State.SeqFits.enter (h : s.SeqFits) (line : Line) : (s.enter line).SeqFits := by
  obtain ⟨hfg, -, hfault⟩ := h
  exact ⟨hfg, rfl, hfault⟩

/-- A longer list has the same word where it had one. -/
theorem wordAt_append {ws vs : List Word} {pc : Offset} {w : Word} (h : wordAt ws pc = some w) :
    wordAt (ws ++ vs) pc = some w := by
  unfold wordAt at h ⊢
  rw [List.getElem?_append_left (List.getElem?_eq_some_iff.mp h).1, h]

theorem State.SeqFits.append_issued (h : s.SeqFits) (w : Word) : { s with issued := s.issued ++ [w] }.SeqFits := by
  obtain ⟨hfg, hrest⟩ := h
  obtain ⟨hpc, hframe, hnone⟩ := State.fgFits_iff.mp hfg
  refine ⟨State.fgFits_iff.mpr ⟨hpc, fun f hf => ⟨?_, (hframe f hf).2⟩, hnone⟩, hrest⟩
  obtain ⟨hl, v, hv, hd⟩ := frameFits_iff.mp (hframe f hf).1
  refine frameFits_iff.mpr ⟨hl, v, ?_, hd⟩
  rw [show State.fgWords _ = s.fgWords ++ [w] by simp [State.fgWords]]
  exact wordAt_append hv

theorem State.SeqFits.issue (h : s.SeqFits) (w : Word) : (s.issue w).SeqFits := by
  obtain ⟨hi, hbusy, -⟩ | ⟨hi, -⟩ | ⟨hi, -⟩ := issue_cases s w <;> rw [hi]
  · obtain ⟨hfg, hrest⟩ := h
    obtain ⟨hpc, hframe, -⟩ := State.fgFits_iff.mp hfg
    exact ⟨State.fgFits_iff.mpr ⟨hpc, hframe, fun hf => by simp_all [State.busy]⟩, hrest⟩
  · exact h
  · exact h.append_issued w

theorem State.SeqFits.takeMove (h : s.SeqFits) : s.takeMove.SeqFits :=
  State.SameSeq.seqFits (by simp [State.SameSeq]) (by simp) h

/-! ## The commands -/

theorem State.SameSeq.fgWords {u : State} (h : s.SameSeq u) : u.fgWords = s.fgWords := by
  obtain ⟨hcfg, -, -, hissued, -⟩ := h
  simp [State.fgWords, hcfg, hissued]

theorem State.SameSeq.isrFits {u : State} (h : s.SameSeq u) : u.isrFits = s.isrFits := by
  obtain ⟨hcfg, -, -, -, -, hactive, hisr, -⟩ := h
  simp [State.isrFits, hcfg, hactive, hisr]

theorem State.SameSeq.faultFits {u : State} (h : s.SameSeq u) : u.faultFits = s.faultFits := by
  obtain ⟨-, -, -, -, -, -, -, hfault, hcode⟩ := h
  simp [State.faultFits, hfault, hcode]

theorem State.fgWaiting_of_fgMayStep (h : s.fgMayStep = true) : s.fgWaiting = false := by
  by_contra hw
  exact absurd (State.fgMayStep_eq_false_iff.mpr (.inr (.inr (.inr (by simpa using hw))))) (by simp [h])

/-- In the foreground the command `i` at `PC` stays under execution, with `FG_WAITING` only at S2 of `WAIT` (10_state.md
R23). -/
theorem seqFits_hold_fg {i : Instr} {u : State} {l : Label} (h : s.SeqFits) (ha : s.isrActive = false)
    (hwait : s.fgWaiting = false) (hcmd : ∃ w, wordAt s.fgWords s.pc = some w ∧ decode w = .ok i) (hu : s.SameSeq u)
    (hl : l.belongsTo i = true) (hw : u.fgWaiting = s.fgWaiting ∨ l.inWait = true) :
    (u.hold { cmd := i, label := l }).SeqFits := by
  obtain ⟨hfg, hisr, hfault⟩ := h
  have ⟨_, hpc, _, _, _, hactive, _⟩ := hu
  rw [u.hold_fg (hactive.trans ha)]
  refine ⟨State.fgFits_iff.mpr ⟨?pc, fun f hf => ?frame, by simp⟩, hu.isrFits.trans hisr, hu.faultFits.trans hfault⟩
  case pc => exact (congrArg (·.toNat % 4) hpc).trans (State.fgFits_iff.mp hfg).1
  case frame =>
    obtain rfl : { cmd := i, label := l } = f := Option.some.inj hf
    refine ⟨frameFits_iff.mpr ⟨hl, ?_⟩, fun hwaits => hw.resolve_left fun hsame => ?_⟩
    · change ∃ w, wordAt u.fgWords u.pc = some w ∧ decode w = .ok i
      rwa [hu.fgWords, hpc]
    · exact Bool.noConfusion (hwaits.symm.trans (hsame.trans hwait))

/-- In the foreground a completed command leaves no frame, and the held write is taken (30_encoding.md R82, 20_memory.md
R66). -/
theorem seqFits_complete_fg {u : State} (h : s.SeqFits) (ha : s.isrActive = false) (hwait : s.fgWaiting = false)
    (hu : s.SameSeq u) (hw : u.fgWaiting = s.fgWaiting) : u.complete.SeqFits := by
  obtain ⟨hfg, hisr, hfault⟩ := h
  have ⟨_, hpc, _, _, _, hactive, _⟩ := hu
  rw [u.complete_fg (hactive.trans ha)]
  refine ⟨State.fgFits_iff.mpr ⟨?pc, by simp, fun _ => ⟨hw.trans hwait, rfl⟩⟩, hu.isrFits.trans hisr,
    hu.faultFits.trans hfault⟩
  have h4 : s.pc.toNat % 4 = 0 := (State.fgFits_iff.mp hfg).1
  have hadd : (s.pc + 4).toNat = (s.pc.toNat + 4) % 2 ^ 33 := BitVec.toNat_add s.pc 4
  change (u.pc + 4).toNat % 4 = 0
  rw [hpc, hadd]
  omega

theorem seqFits_exec_fg {i : Instr} {t : State} (h : s.SeqFits) (ha : s.isrActive = false) (hwait : s.fgWaiting = false)
    (hcmd : ∃ w, wordAt s.fgWords s.pc = some w ∧ decode w = .ok i) (hx : exec i s = .next t) : t.SeqFits := by
  cases exec_microStep hx with
  | held l he hl hw => exact seqFits_hold_fg h ha hwait hcmd he.sameSeq hl hw
  | done he hw => exact seqFits_complete_fg h ha hwait he.sameSeq hw
  | fault c hc => exact h.raiseFault hc

/-- The six waiting commands fault in interrupt context (30_encoding.md R88). -/
theorem exec_waiting_isr {i : Instr} (hi : waitsFor i = true) (ha : s.isrActive = true) :
    exec i s = .next (s.raiseFault .illegalContext) := by
  have hctx := s.ctx_isr ha
  cases i with
  | slpTimeout _ | slpDuration _ | slpUntil _ | lfStart | hfStartDelay | hfStartIrq =>
    simp only [exec, execSlpTimeout, execSlpDuration, execSlpUntil, execLfStart, execHfStartDelay, execHfStartIrq,
      foregroundOnly, hctx, Micro.settle]
  | _ => cases hi

/-- `FG_WAITING` is written by the waiting commands alone (10_state.md R23). -/
theorem Effect.fgWaiting_eq {i : Instr} {u : State} (h : Effect i s u) (hi : waitsFor i = false) :
    u.fgWaiting = s.fgWaiting := by
  cases h with
  | wait a b hw => simp [hi] at hw
  | _ => simp

/-- Only the list itself moves: the fitting list `l` may be replaced by a fitting one. -/
theorem State.SeqFits.with_top (h : s.SeqFits) {f : IsrFrame} {l k : ListFrame} {rest : List ListFrame}
    (hf : s.isrFrame = some f) (hl : f.stack = l :: rest) (hk : listFits s.cfg k = true) :
    { s with isrFrame := some { f with stack := k :: rest } }.SeqFits := by
  have ⟨_, hisr, _⟩ := h
  obtain ⟨ha, hlen, hall⟩ := (State.isrFits_of_some hf).mp hisr
  rw [hl] at hlen hall
  refine h.with_isrFrame ha hlen fun x hx => ?_
  obtain rfl | hx := List.mem_cons.mp hx
  · exact hk
  · exact hall x (List.mem_cons_of_mem _ hx)

theorem seqFits_exec_isr {i : Instr} {t : State} {f : IsrFrame} {l : ListFrame} {rest : List ListFrame}
    (h : s.SeqFits) (hf : s.isrFrame = some f) (hl : f.stack = l :: rest)
    (hcmd : ∃ w, wordAt (listWords s.cfg l.list) l.pc = some w ∧ decode w = .ok i) (hx : exec i s = .next t) :
    t.SeqFits := by
  have ⟨_, hisr, _⟩ := h
  obtain ⟨ha, -, hall⟩ := (State.isrFits_of_some hf).mp hisr
  have h4 : l.pc.toNat % 4 = 0 := (listFits_iff.mp (hall l (by simp [hl]))).1
  cases hi : waitsFor i with
  | true =>
    rw [exec_waiting_isr hi ha] at hx
    cases hx
    exact h.raiseFault (by decide)
  | false =>
    cases exec_microStep hx with
    | @held u b he hb _ =>
      have hu := he.sameSeq.seqFits (he.fgWaiting_eq hi) h
      have ⟨hcfg, _, _, _, _, hactive, hframe, _⟩ := he.sameSeq
      rw [u.hold_isr (hactive.trans ha) (hframe.trans hf) hl]
      refine hu.with_top (hframe.trans hf) hl (listFits_iff.mpr ⟨h4, fun c hc => ?_⟩)
      obtain rfl := Option.some.inj hc
      exact ⟨frameFits_iff.mpr ⟨hb, by rwa [hcfg]⟩, hi⟩
    | @done u he hw =>
      have hu := he.sameSeq.seqFits hw h
      have ⟨_, _, _, _, _, hactive, hframe, _⟩ := he.sameSeq
      rw [u.complete_isr (hactive.trans ha) (hframe.trans hf) hl]
      refine hu.with_top (hframe.trans hf) hl (listFits_iff.mpr ⟨?_, by simp⟩)
      have hadd : (l.pc + 4).toNat = (l.pc.toNat + 4) % 2 ^ 33 := BitVec.toNat_add l.pc 4
      change (l.pc + 4).toNat % 4 = 0
      omega
    | fault c hc => exact h.raiseFault hc

/-! ## The handlers and the moves -/

theorem HandlerMicro.seqFits {f : IsrFrame} {t : State} (hm : HandlerMicro f s t) (h : s.SeqFits)
    (hf : s.isrFrame = some f) (hnil : f.stack = []) : t.SeqFits := by
  have ⟨_, hisr, _⟩ := h
  obtain ⟨ha, -⟩ := (State.isrFits_of_some hf).mp hisr
  cases hm with
  | goes g l he hg =>
    obtain ⟨hsame, hw⟩ := he.sameSeq
    have ⟨_, _, _, _, _, hactive, _⟩ := hsame
    exact (hsame.seqFits hw h).with_isrFrame (hactive.trans ha) (by simp [hg, hnil]) (by simp [hg, hnil])
  | invokes l id he =>
    obtain ⟨hsame, hw⟩ := he.sameSeq
    have ⟨_, _, _, _, _, hactive, _⟩ := hsame
    exact (hsame.seqFits hw h).with_isrFrame (hactive.trans ha) (by simp [hnil]) (by simpa [hnil] using listFits_fresh _ id)
  | stays => exact h
  | fault c he hc =>
    obtain ⟨hsame, hw⟩ := he.sameSeq
    exact (hsame.seqFits hw h).raiseFault hc
  | exits _ => exact h.leave

/-- A finished list is popped (60_exceptions.md R261). -/
theorem State.SeqFits.popList (h : s.SeqFits) {f : IsrFrame} (hf : s.isrFrame = some f) : (s.popList f).SeqFits := by
  have ⟨_, hisr, _⟩ := h
  obtain ⟨ha, hlen, hall⟩ := (State.isrFits_of_some hf).mp hisr
  refine h.with_isrFrame ha ?_ fun l hl => hall l (List.mem_of_mem_tail hl)
  simp only [List.length_tail]
  omega

theorem seqFits_fgStep {t : State} (h : s.SeqFits) (hx : fgStep s = .next t) : t.SeqFits := by
  have ⟨hfg, _⟩ := h
  obtain ⟨-, hframe, hnone⟩ := State.fgFits_iff.mp hfg
  obtain rfl | ⟨hm, f, hf, hx⟩ | ⟨hm, hf, w, hw, ⟨i, hi, hx⟩ | ⟨e, -, rfl⟩⟩ := fgStep_cases hx
  · exact h
  · obtain ⟨-, hcmd⟩ := frameFits_iff.mp (hframe f hf).1
    exact seqFits_exec_fg h (State.isrActive_of_fgMayStep hm) (State.fgWaiting_of_fgMayStep hm) hcmd hx
  · exact seqFits_exec_fg h (State.isrActive_of_fgMayStep hm) (hnone hf).1 ⟨w, wordAt_of_fetch hw, hi⟩ hx
  · exact h.raiseFault (by decide)

theorem seqFits_isrStep {t : State} {line : Line} (h : s.SeqFits) (hx : isrStep line s = .next t) : t.SeqFits := by
  obtain rfl | ⟨-, -, -, rfl⟩ | ⟨-, -, f, hf, ⟨hnil, rfl⟩ | ⟨l, rest, hl, hlist⟩⟩ := isrStep_cases hx
  · exact h
  · exact h.enter line
  · exact (handlerStep_micro f s).seqFits h hf hnil
  have ⟨_, hisr, _⟩ := h
  obtain ⟨-, -, hall⟩ := (State.isrFits_of_some hf).mp hisr
  obtain ⟨-, hframe⟩ := listFits_iff.mp (hall l (by simp [hl]))
  obtain ⟨c, hc, hx⟩ | ⟨-, -, rfl⟩ | ⟨-, w, hw, ⟨i, hi, hx⟩ | ⟨e, -, rfl⟩⟩ := hlist
  · obtain ⟨-, hcmd⟩ := frameFits_iff.mp (hframe c hc).1
    exact seqFits_exec_isr h hf hl hcmd hx
  · exact h.popList hf
  · exact seqFits_exec_isr h hf hl ⟨w, wordAt_of_fetch hw, hi⟩ hx
  · exact h.raiseFault (by decide)

theorem seqFits_moveStep {m : Move} {t : State} (h : s.SeqFits) (hx : moveStep m s = .next t) : t.SeqFits := by
  cases m with
  | fg => exact seqFits_fgStep h hx
  | isr line => exact seqFits_isrStep h hx
  | cnt d => cases hx; unfold cntStep; split <;> exact h
  | settle => cases hx; unfold settleStep; split <;> exact h
  | osc x => cases hx; cases x <;> simp only [oscStep] <;> split <;> exact h
  | envRadio => cases hx; exact h
  | envPower => cases hx; exact h
  | envWake => cases hx; unfold envWakeStep; split; exacts [h.not_waiting s.evLatch, h]
  | hostRead addr n => cases hx; unfold hostReadStep; split; exacts [h, h.raiseFault (by decide)]
  | hostWrite addr n v => cases hx; unfold hostWriteStep; split; exacts [h.issue v, h.raiseFault (by decide)]

end

/-- Settles O54: where the sequencers stand is kept micro-step by micro-step (`seqFits_moveStep`), the rest write by write
(`dataFits_step`). -/
theorem everyStepKeepsTheInvariant : Obligations.EveryStepKeepsTheInvariant := by
  intro s t hinv h
  obtain ⟨hseq, hdata⟩ := State.inv_iff.mp hinv
  exact State.inv_iff.mpr ⟨seqFits_moveStep hseq.takeMove h, dataFits_step hdata h⟩

/-- Settles O53. -/
theorem invariantHoldsAtReset : Obligations.InvariantHoldsAtReset := by
  have reset : ∀ p : Params, (State.resetWith p).Inv := fun p => ⟨rfl, rfl, rfl, rfl, rfl, rfl, nofun⟩
  exact ⟨reset, reset _⟩

end Sys2Proof.Machine
end

section
/-! SUPPORT. What each effect of a command leaves alone, field by field, and from it the frame of every micro-step of every
command. -/

namespace Sys2Proof.Machine

/-! ## Completion, hold and fault -/

/-- A micro-step in the foreground leaves `ISR_FRAME`, and completes the command, keeps it at a label of its own, or faults
(30_encoding.md R82). -/
theorem exec_fg_cases {i : Instr} {s t : State} (ha : s.isrActive = false) (h : exec i s = .next t) :
    t.isrFrame = s.isrFrame
      ∧ ((t.pc = s.pc + 4 ∧ t.fgFrame = none)
          ∨ (t.pc = s.pc ∧ ∃ l, t.fgFrame = some ⟨i, l⟩ ∧ l.belongsTo i = true)
          ∨ (t.pc = s.pc ∧ t.fgFrame = s.fgFrame ∧ t.fault = true)) := by
  cases exec_microStep h with
  | held l he hl _ =>
    obtain ⟨-, hpc, -, -, -, hactive, hisr, -⟩ := he.sameSeq
    rw [State.hold_fg _ (hactive.trans ha)]
    exact ⟨hisr, .inr (.inl ⟨hpc, l, rfl, hl⟩)⟩
  | done he _ =>
    obtain ⟨-, hpc, -, -, -, hactive, hisr, -⟩ := he.sameSeq
    rw [State.complete_fg _ (hactive.trans ha)]
    exact ⟨hisr, .inl ⟨congrArg (· + 4) hpc, rfl⟩⟩
  | fault c _ => exact ⟨by simp, .inr (.inr ⟨by simp, by simp, by simp⟩)⟩

/-- A micro-step in a handler's list leaves the foreground, and moves the top of the list stack alone (60_exceptions.md
R261). -/
theorem exec_isr_cases {i : Instr} {s t : State} {g : IsrFrame} {l : ListFrame} {rest : List ListFrame}
    (ha : s.isrActive = true) (hg : s.isrFrame = some g) (hl : g.stack = l :: rest) (h : exec i s = .next t) :
    t.pc = s.pc ∧ t.fgFrame = s.fgFrame
      ∧ (t.isrFrame = some { g with stack := { l with pc := l.pc + 4, frame := none } :: rest }
          ∨ (∃ b, b.belongsTo i = true ∧ t.isrFrame = some { g with stack := { l with frame := some ⟨i, b⟩ } :: rest })
          ∨ (t.isrFrame = s.isrFrame ∧ t.fault = true)) := by
  cases exec_microStep h with
  | held b he hb _ =>
    obtain ⟨-, hpc, hframe, -, -, hactive, hisr, -⟩ := he.sameSeq
    rw [State.hold_isr _ (hactive.trans ha) (hisr.trans hg) hl]
    exact ⟨hpc, hframe, .inr (.inl ⟨b, hb, rfl⟩)⟩
  | done he _ =>
    obtain ⟨-, hpc, hframe, -, -, hactive, hisr, -⟩ := he.sameSeq
    rw [State.complete_isr _ (hactive.trans ha) (hisr.trans hg) hl]
    exact ⟨hpc, hframe, .inl rfl⟩
  | fault c _ => exact ⟨by simp, by simp, .inr (.inr ⟨by simp, by simp⟩)⟩

/-- Settles O9. -/
theorem microStepHoldsCompletesOrFaults : Obligations.MicroStepHoldsCompletesOrFaults :=
  ⟨fun s ha => ⟨s.complete_fg ha, s.hold_fg ha⟩,
    fun s _ _ _ ha hg hl => ⟨s.complete_isr ha hg hl, s.hold_isr ha hg hl⟩,
    fun _ _ _ => exec_fg_cases, fun _ _ _ _ _ _ => exec_isr_cases⟩

/-! ## The state of a micro-step but for its bookkeeping -/

/-- `u` with the bookkeeping of `v`: the place of the sequencers, the words issued, the fault and the history. -/
def State.withBook (u v : State) : State :=
  { u with
    pc := v.pc, fgFrame := v.fgFrame, isrFrame := v.isrFrame, issued := v.issued, cmdHeld := v.cmdHeld
    fault := v.fault, faultCode := v.faultCode, history := v.history }

section

variable (u : State)

theorem State.mapTop_eq_withBook (g : ListFrame → ListFrame) : u.mapTop g = u.withBook (u.mapTop g) := by
  unfold State.mapTop
  split
  · split <;> rfl
  · rfl

theorem State.hold_eq_withBook (f : CmdFrame) : u.hold f = u.withBook (u.hold f) := by
  unfold State.hold
  split
  · rfl
  · exact u.mapTop_eq_withBook _

theorem State.complete_eq_withBook : u.complete = u.withBook u.complete := by
  unfold State.complete
  split
  · rfl
  · exact u.mapTop_eq_withBook _

theorem State.raiseFault_eq_withBook (c : FaultCode) : u.raiseFault c = u.withBook (u.raiseFault c) := by
  unfold State.raiseFault
  split <;> rfl

end

/-- Every micro-step of every command is one of its effects, but for the bookkeeping. -/
theorem exec_effect {i : Instr} {s t : State} (h : exec i s = .next t) : ∃ u v, Effect i s u ∧ t = u.withBook v := by
  cases exec_microStep h with
  | held l he _ _ => exact ⟨_, _, he, State.hold_eq_withBook _ _⟩
  | done he _ => exact ⟨_, _, he, State.complete_eq_withBook _⟩
  | fault c _ => exact ⟨_, _, .same, State.raiseFault_eq_withBook _ c⟩

/-! ## The registers that few commands write -/

section

variable {s : State} {ch : ChIx} {k : PoolIx}

@[simp] theorem State.startClock_ovf : s.startClock.ovf = 0 := by
  unfold State.startClock; dsimp only; split <;> rfl

@[simp] theorem State.startClock_counter : s.startClock.counter = 0 := by
  unfold State.startClock; dsimp only; split <;> rfl

/-- With the pool initialised CLK.START leaves the timers and the channels alone (40_clock.md R105). -/
theorem State.startClock_timers_of_poolInit (h : s.poolInit = true) : s.startClock.timers = s.timers := by
  simp [State.startClock, h]

theorem State.startClock_chans_of_poolInit (h : s.poolInit = true) : s.startClock.chans = s.chans := by
  simp [State.startClock, h]

theorem State.timer_markExpired_ne (h : k.chan ≠ ch) : (s.markExpired ch).timer k = s.timer k := by
  cases ch <;> simp only [State.markExpired]
  case ch3 => rfl
  all_goals exact State.timer_setTimer_ne _ _ _ (by rintro rfl; exact h rfl)

@[simp] theorem State.chan_markExpired (ch' : ChIx) : (s.markExpired ch).chan ch' = s.chan ch' := by
  cases ch <;> rfl

theorem State.timer_commitArm_ne {d t0 : Ticks} (h : k.chan ≠ ch) : (s.commitArm ch d t0).timer k = s.timer k := by
  unfold State.commitArm
  dsimp only
  split
  · exact State.timer_markExpired_ne h
  · rfl

/-- A commit enables its channel and clears its event (41_timer.md R143). -/
theorem State.chan_commitArm {d t0 : Ticks} (ch' : ChIx) :
    (s.commitArm ch d t0).chan ch' = (s.setChan ch { s.chan ch with evt := false, inten := true }).chan ch' := by
  unfold State.commitArm
  dsimp only
  split
  · exact State.chan_markExpired ch'
  · rfl

theorem State.task_commitArm_ne {d t0 : Ticks} (h : ch ≠ .ch3) : (s.commitArm ch d t0).taskExpired = s.taskExpired := by
  unfold State.commitArm
  dsimp only
  split
  · cases ch
    case ch3 => exact absurd rfl h
    all_goals rfl
  · rfl

theorem Timers.eq_of_get {a b : Timers} (h : ∀ k, a.get k = b.get k) : a = b := by
  have h0 : a.p0 = b.p0 := h .t0
  have h1 : a.p1 = b.p1 := h .t1
  have h2 : a.p2 = b.p2 := h .t2
  cases a; cases b; simp_all

theorem Channels.eq_of_get {a b : Channels} (h : ∀ ch, a.get ch = b.get ch) : a = b := by
  have h0 : a.c0 = b.c0 := h .ch0
  have h1 : a.c1 = b.c1 := h .ch1
  have h2 : a.c2 = b.c2 := h .ch2
  have h3 : a.c3 = b.c3 := h .ch3
  cases a; cases b; simp_all

theorem timerOf_of_channelOf {n : PoolSize} {i : Instr} (h : channelOf n i = some k.chan) : timerOf n i = some k := by
  unfold channelOf at h
  split at h
  · cases k <;> cases h
  · obtain ⟨j, hj, hk⟩ := Option.map_eq_some_iff.mp h
    rw [hj, PoolIx.chan_injective hk]

theorem channelOf_of_timerOf {n : PoolSize} {i : Instr} (h : timerOf n i = some k) : channelOf n i = some k.chan := by
  unfold channelOf
  split
  · cases h
  · rw [h]; rfl

end

namespace Effect

variable {i : Instr} {s u : State}

theorem res_eq (h : Effect i s u) (hi : isQuery i = false) : u.res = s.res := by
  cases h with
  | answer v hq => simp [hi] at hq
  | answerTime v w hc => rw [hc] at hi; cases hi
  | _ => simp

theorem wake_eq (h : Effect i s u) (hi : writesWake i = false) : u.wake = s.wake := by
  cases h with
  | wake w hw => simp [hi] at hw
  | _ => simp

theorem sane_eq_or (h : Effect i s u) : u.sane = s.sane ∨ i = .slpSetSane u.sane := by
  cases h with
  | sane m hm => exact .inr hm
  | _ => exact .inl (by simp)

theorem evLatch_eq (h : Effect i s u) (hi : waitsFor i = false) : u.evLatch = s.evLatch := by
  cases h with
  | wait a b hw => simp [hi] at hw
  | _ => simp

theorem lfclk_eq (h : Effect i s u) (hi : requestedOsc i ≠ some .lf) : u.lfclk = s.lfclk := by
  cases h with
  | request x hx =>
    cases x with
    | lf => exact absurd hx hi
    | hf => unfold State.startReq; dsimp only; split <;> rfl
  | _ => simp

theorem hfclk_eq (h : Effect i s u) (hi : requestedOsc i ≠ some .hf) : u.hfclk = s.hfclk := by
  cases h with
  | request x hx =>
    cases x with
    | lf => unfold State.startReq; dsimp only; split <;> rfl
    | hf => exact absurd hx hi
  | _ => simp

theorem intenOsc_eq (h : Effect i s u) (hlf : i ≠ .lfStart) (hhf : i ≠ .hfStartIrq) :
    u.intenLf = s.intenLf ∧ u.intenHf = s.intenHf := by
  cases h with
  | enable a b hi => exact absurd hi (by simp [hlf, hhf])
  | _ => simp

theorem ovf_eq_or (h : Effect i s u) : u.ovf = s.ovf ∨ (u.ovf = 0 ∧ (i = .clkStart ∨ i = .clkReset0)) := by
  cases h with
  | start hi => exact .inr ⟨by simp, .inl hi⟩
  | rebase hi => exact .inr ⟨rfl, .inr hi⟩
  | _ => exact .inl (by simp)

theorem lastNow_eq_or (h : Effect i s u) : u.lastNow = s.lastNow ∨ asksTime i = true ∨ i = .clkStart ∨ i = .clkReset0 := by
  cases h with
  | query v ht => exact .inr (.inl ht)
  | answerTime v w hi => exact .inr (.inl (by rw [hi]; rfl))
  | start hi => exact .inr (.inr (.inl hi))
  | rebase hi => exact .inr (.inr (.inr hi))
  | _ => exact .inl (by simp)

theorem counter_eq_or (h : Effect i s u) : u.counter = s.counter ∨ (u.counter = 0 ∧ i = .clkStart) := by
  cases h with
  | start hi => exact .inr ⟨by simp, hi⟩
  | _ => exact .inl (by simp)

/-- What CLK.START alone writes beside the counter (40_clock.md R105). -/
theorem clock_eq (h : Effect i s u) (hi : i ≠ .clkStart) :
    u.counterRunning = s.counterRunning ∧ u.evtOvf = s.evtOvf ∧ u.evtOvfClrPend = s.evtOvfClrPend
      ∧ u.intenOvf = s.intenOvf ∧ u.poolInit = s.poolInit := by
  cases h with
  | start hs => exact absurd hs hi
  | _ => simp

/-- What no command writes. -/
theorem others_eq (h : Effect i s u) :
    u.cfg = s.cfg ∧ u.pendRadio = s.pendRadio ∧ u.pendPower = s.pendPower ∧ u.isrActive = s.isrActive
      ∧ u.evtLfStarted = s.evtLfStarted ∧ u.evtHfStarted = s.evtHfStarted ∧ u.sched = s.sched ∧ u.draws = s.draws := by
  cases h <;> simp

theorem pendTimerSw_eq (h : Effect i s u) (hi : armsATimer i = false) : u.pendTimerSw = s.pendTimerSw := by
  cases h with
  | commit ch d t0 ha => simp [hi] at ha
  | _ => simp

/-! ## The timers and the channels -/

/-- The command initialises the pool (40_clock.md R105). -/
def InitsPool (i : Instr) (s : State) : Prop := i = .clkStart ∧ s.poolInit = false

theorem timer_eq (h : Effect i s u) {k : PoolIx} (hk : timerOf s.cfg.nTimers i ≠ some k) (hp : ¬ InitsPool i s) :
    u.timer k = s.timer k := by
  have other : ∀ {j}, timerOf s.cfg.nTimers i = some j → k ≠ j := by rintro j hj rfl; exact hk hj
  cases h with
  | start hi =>
    rw [State.timer, State.startClock_timers_of_poolInit (by simpa [InitsPool, hi] using hp)]
    rfl
  | commit ch d t0 _ hc _ =>
    exact State.timer_commitArm_ne fun hch => hk (timerOf_of_channelOf (hch ▸ hc))
  | take j cb hj _ _ => exact State.timer_setTimer_ne _ _ _ (other hj)
  | free j hj _ => exact State.timer_setTimer_ne _ _ _ (other hj)
  | request x _ => simp [State.timer]
  | _ => rfl

theorem chan_eq (h : Effect i s u) {ch : ChIx} (hk : channelOf s.cfg.nTimers i ≠ some ch) (hp : ¬ InitsPool i s) :
    u.chan ch = s.chan ch := by
  have other : ∀ {c}, channelOf s.cfg.nTimers i = some c → ch ≠ c := by rintro c hc rfl; exact hk hc
  have otherTimer : ∀ {j}, timerOf s.cfg.nTimers i = some j → ch ≠ j.chan := fun hj => other (channelOf_of_timerOf hj)
  cases h with
  | start hi =>
    rw [State.chan, State.startClock_chans_of_poolInit (by simpa [InitsPool, hi] using hp)]
    rfl
  | compare c v _ hc => exact State.chan_setChan_ne _ _ _ (other hc)
  | commit c d t0 _ hc _ => rw [State.chan_commitArm, State.chan_setChan_ne _ _ _ (other hc)]
  | take j cb hj _ _ => exact State.chan_setChan_ne _ _ _ (otherTimer hj)
  | takeTask id d hi _ => exact State.chan_setChan_ne _ _ _ (other (by rw [hi]; rfl))
  | disarm j hj => exact State.chan_setChan_ne _ _ _ (otherTimer hj)
  | clearEvent j hj => exact State.chan_setChan_ne _ _ _ (otherTimer hj)
  | request x _ => simp [State.chan]
  | _ => rfl

theorem task_eq (h : Effect i s u) (hi : ∀ id d, i ≠ .taskSched id d) (hp : ¬ InitsPool i s) :
    u.taskInUse = s.taskInUse ∧ u.taskExpired = s.taskExpired ∧ u.taskId = s.taskId := by
  cases h with
  | start hs =>
    have hinit : s.poolInit = true := by simpa [InitsPool, hs] using hp
    simp [State.startClock, hinit]
  | commit ch d t0 _ hc _ =>
    refine ⟨by simp, State.task_commitArm_ne ?_, by simp⟩
    rintro rfl
    unfold channelOf at hc
    split at hc
    · exact hi _ _ rfl
    · obtain ⟨j, -, hj⟩ := Option.map_eq_some_iff.mp hc
      cases j <;> cases hj
  | takeTask id d hs _ => exact absurd hs (hi id d)
  | _ => simp

theorem timers_eq (h : Effect i s u) (hi : timerOf s.cfg.nTimers i = none) (hp : ¬ InitsPool i s) : u.timers = s.timers := by
  have hk : ∀ k, u.timer k = s.timer k := fun k => h.timer_eq (by simp [hi]) hp
  exact Timers.eq_of_get hk

theorem chans_eq (h : Effect i s u) (hi : channelOf s.cfg.nTimers i = none) (hp : ¬ InitsPool i s) : u.chans = s.chans := by
  have hk : ∀ ch, u.chan ch = s.chan ch := fun ch => h.chan_eq (by simp [hi]) hp
  exact Channels.eq_of_get hk

end Effect

/-! ## The families -/

/-- The commands that work on the clock and the result register alone: queries, CLK.START, CLK.RESET0, CLK.WAITTICK. -/
theorem no_sleep_no_timer {i : Instr} (hi : isQuery i = true ∨ i = .clkStart ∨ i = .clkReset0 ∨ i = .clkWaitTick)
    (n : PoolSize) :
    writesWake i = false ∧ waitsFor i = false ∧ armsATimer i = false ∧ requestedOsc i = none ∧ channelOf n i = none
      ∧ i ≠ .lfStart ∧ i ≠ .hfStartIrq ∧ (∀ m, i ≠ .slpSetSane m) ∧ ∀ id d, i ≠ .taskSched id d := by
  cases i with
  | clkNow | clkIsRunning | tmrIsStarted _ | tmrIsExpired _ | slpIsTimer | wakeRead | clkStart | clkReset0 | clkWaitTick =>
    exact ⟨rfl, rfl, rfl, rfl, rfl, nofun, nofun, nofun, nofun⟩
  | _ => obtain h | h | h | h := hi <;> cases h

/-- The commands that write the wake reason or wait, and work on no timer. -/
theorem no_timer_of_family {i : Instr}
    (hi : i = .postMsg ∨ i = .postBrownout ∨ (∃ m, i = .slpSetSane m) ∨ (∃ r, i = .slpUntil r) ∨ i = .lfStart
      ∨ i = .hfStartIrq) (n : PoolSize) :
    asksTime i = false ∧ armsATimer i = false ∧ channelOf n i = none ∧ i ≠ .clkStart ∧ i ≠ .clkReset0
      ∧ ∀ id d, i ≠ .taskSched id d := by
  obtain rfl | rfl | ⟨m, rfl⟩ | ⟨r, rfl⟩ | rfl | rfl := hi <;> exact ⟨rfl, rfl, rfl, nofun, nofun, nofun⟩

theorem timerOf_eq_none_of_channelOf {n : PoolSize} {i : Instr} (h : channelOf n i = none) : timerOf n i = none := by
  by_contra hne
  obtain ⟨k, hk⟩ := Option.ne_none_iff_exists'.mp hne
  simp [channelOf_of_timerOf hk] at h

namespace Effect

variable {i : Instr} {s u : State}

theorem not_initsPool (h : i ≠ .clkStart ∨ s.poolInit = true) : ¬ InitsPool i s := by
  rintro ⟨hi, hp⟩
  obtain h | h := h
  · exact h hi
  · simp [hp] at h

/-- The frame of the commands on one pool timer (41_timer.md R145, R146). -/
theorem frame_of_pool (h : Effect i s u) {idx : BitVec 2} {j : PoolIx}
    (hi : (∃ cb d, i = .tmrStart idx cb d) ∨ i = .tmrCancel idx) (hj : poolIx? s.cfg.nTimers idx = some j) :
    u.wake = s.wake ∧ u.sane = s.sane ∧ u.ovf = s.ovf ∧ u.taskInUse = s.taskInUse ∧ u.taskExpired = s.taskExpired
      ∧ u.taskId = s.taskId ∧ u.evLatch = s.evLatch ∧ u.fgWaiting = s.fgWaiting
      ∧ (∀ k, k ≠ j → u.timer k = s.timer k) ∧ ∀ ch, ch ≠ j.chan → u.chan ch = s.chan ch := by
  have hp : ¬ InitsPool i s := not_initsPool (.inl (by obtain ⟨_, _, rfl⟩ | rfl := hi <;> nofun))
  have ht : timerOf s.cfg.nTimers i = some j := by obtain ⟨_, _, rfl⟩ | rfl := hi <;> exact hj
  have hc := channelOf_of_timerOf ht
  have htask : ∀ id d, i ≠ .taskSched id d := by obtain ⟨_, _, rfl⟩ | rfl := hi <;> nofun
  have hwake : writesWake i = false ∧ waitsFor i = false := by obtain ⟨_, _, rfl⟩ | rfl := hi <;> exact ⟨rfl, rfl⟩
  obtain ⟨huse, hexp, hid⟩ := h.task_eq htask hp
  refine ⟨h.wake_eq hwake.1, h.sane_eq_or.resolve_right ?_, h.ovf_eq_or.resolve_right ?_, huse, hexp, hid,
    h.evLatch_eq hwake.2, h.fgWaiting_eq hwake.2, fun k hk => h.timer_eq ?_ hp, fun ch hch => h.chan_eq ?_ hp⟩
  · obtain ⟨_, _, rfl⟩ | rfl := hi <;> nofun
  · obtain ⟨_, _, rfl⟩ | rfl := hi <;> simp
  · simpa [ht] using hk.symm
  · simpa [hc] using hch.symm

/-- The frame of TASK.SCHED (41_timer.md R160). -/
theorem frame_of_taskSched {id : BitVec 2} {d : Ticks} (h : Effect (.taskSched id d) s u) :
    u.wake = s.wake ∧ u.sane = s.sane ∧ u.ovf = s.ovf ∧ u.timers = s.timers ∧ u.evLatch = s.evLatch
      ∧ u.fgWaiting = s.fgWaiting ∧ ∀ ch, ch ≠ .ch3 → u.chan ch = s.chan ch := by
  have hp : ¬ InitsPool (.taskSched id d) s := not_initsPool (.inl nofun)
  exact ⟨h.wake_eq rfl, h.sane_eq_or.resolve_right nofun, h.ovf_eq_or.resolve_right (by simp), h.timers_eq rfl hp,
    h.evLatch_eq rfl, h.fgWaiting_eq rfl, fun ch hch => h.chan_eq (by simpa [channelOf] using hch.symm) hp⟩

/-- The frame of the commands that run the body of SLP.TIMEOUT (42_sleep.md R187, R189, 43_startup.md R225). -/
theorem frame_of_sleep (h : Effect i s u) (hi : runsSleepBody i = true) :
    u.sane = s.sane ∧ u.ovf = s.ovf ∧ u.taskInUse = s.taskInUse ∧ u.taskExpired = s.taskExpired
      ∧ u.taskId = s.taskId ∧ u.lfclk = s.lfclk ∧ u.intenLf = s.intenLf ∧ u.intenHf = s.intenHf
      ∧ (i ≠ .hfStartDelay → u.hfclk = s.hfclk)
      ∧ (∀ k, k ≠ .t0 → u.timer k = s.timer k) ∧ ∀ ch, ch ≠ .ch0 → u.chan ch = s.chan ch := by
  have hother : i ≠ .clkStart ∧ i ≠ .clkReset0 ∧ i ≠ .lfStart ∧ i ≠ .hfStartIrq := by
    refine ⟨?_, ?_, ?_, ?_⟩ <;> rintro rfl <;> cases hi
  obtain ⟨hstart, hreset, hlf, hirq⟩ := hother
  have hp : ¬ InitsPool i s := not_initsPool (.inl hstart)
  obtain ⟨huse, hexp, hid⟩ := h.task_eq (by rintro id d rfl; cases hi) hp
  obtain ⟨hintenLf, hintenHf⟩ := h.intenOsc_eq hlf hirq
  refine ⟨h.sane_eq_or.resolve_right ?_, h.ovf_eq_or.resolve_right (by simp [hstart, hreset]), huse, hexp, hid,
    h.lfclk_eq ?_, hintenLf, hintenHf, fun hdelay => h.hfclk_eq ?_, fun k hk => h.timer_eq ?_ hp,
    fun ch hch => h.chan_eq ?_ hp⟩
  · intro hs; rw [hs] at hi; cases hi
  · exact runsSleepBody_cases (p := (requestedOsc · ≠ some .lf)) hi nofun nofun nofun
  · exact runsSleepBody_cases (p := fun i => i ≠ .hfStartDelay → requestedOsc i ≠ some .hf) hi (fun _ _ => nofun)
      (fun _ _ => nofun) (absurd rfl) hdelay
  · simpa [timerOf_of_runsSleepBody _ hi] using hk.symm
  · simpa [channelOf_of_runsSleepBody _ hi] using hch.symm

end Effect

/-- Settles O58: each clause is a frame lemma about the effect of the micro-step (`exec_effect`). -/
theorem commandFrames : Obligations.CommandFrames := by
  intro i s t h
  obtain ⟨u, v, he, rfl⟩ := exec_effect h
  refine ⟨he.others_eq, fun hi => ?clock, fun hi => he.res_eq hi, fun hi => ?query,
    fun idx j hi hj => he.frame_of_pool hi hj, ?task, fun hi => ?sleep, fun hi => ?wake⟩
  case clock => exact ⟨he.counter_eq_or.resolve_right (by simp [hi]), he.clock_eq hi⟩
  case query =>
    obtain ⟨hwake, hwait, harm, hosc, hch, hlf, hirq, hsane, htask⟩ := no_sleep_no_timer hi s.cfg.nTimers
    obtain ⟨hintenLf, hintenHf⟩ := he.intenOsc_eq hlf hirq
    refine ⟨he.wake_eq hwake, he.sane_eq_or.resolve_right (hsane _), he.lfclk_eq (by simp [hosc]),
      he.hfclk_eq (by simp [hosc]), hintenLf, hintenHf, he.evLatch_eq hwait, he.fgWaiting_eq hwait,
      he.pendTimerSw_eq harm, fun hinit => ?_⟩
    have hp := Effect.not_initsPool hinit
    exact ⟨he.chans_eq hch hp, he.timers_eq (timerOf_eq_none_of_channelOf hch) hp, he.task_eq htask hp⟩
  case task => rintro id d rfl; exact he.frame_of_taskSched
  case sleep =>
    refine he.frame_of_sleep ?_
    obtain ⟨d, rfl⟩ | ⟨d, rfl⟩ | rfl := hi <;> rfl
  case wake =>
    obtain ⟨htime, harm, hch, hstart, hreset, htask⟩ := no_timer_of_family hi s.cfg.nTimers
    have hp := Effect.not_initsPool (s := s) (.inl hstart)
    obtain ⟨huse, hexp, hid⟩ := he.task_eq htask hp
    exact ⟨he.ovf_eq_or.resolve_right (by simp [hstart, hreset]),
      he.lastNow_eq_or.resolve_right (by simp [htime, hstart, hreset]), he.chans_eq hch hp,
      he.timers_eq (timerOf_eq_none_of_channelOf hch) hp, huse, hexp, hid, he.pendTimerSw_eq harm⟩

end Sys2Proof.Machine
end

section
/-! SUPPORT. Who writes the shared registers: a step is a micro-step of a command, a micro-step of a handler, a counter tick, or
leaves them all as they are (`step_kinds`); each clause is read off the effects. -/

namespace Sys2Proof.Machine

/-! ## The kinds of a step -/

/-- The registers shared by commands, handlers and the counter. -/
structure Shared where
  res : BitVec 64
  ovf : Word
  sane : Ticks
  counter : Ticks
  lastNow : Time
  chans : Channels
  timers : Timers
  taskInUse : Bool

/-- The shared registers of a state. -/
def State.shared (s : State) : Shared :=
  { res := s.res, ovf := s.ovf, sane := s.sane, counter := s.counter, lastNow := s.lastNow, chans := s.chans
    timers := s.timers, taskInUse := s.taskInUse }

section

variable {s t u : State}

@[simp] theorem State.shared_takeMove : s.takeMove.shared = s.shared := by unfold State.takeMove; split <;> rfl
@[simp] theorem State.shared_raiseFault (c : FaultCode) : (s.raiseFault c).shared = s.shared := by
  unfold State.raiseFault; split <;> rfl
@[simp] theorem State.chan_takeMove (ch : ChIx) : s.takeMove.chan ch = s.chan ch := by simp [State.chan]
@[simp] theorem State.timer_takeMove (j : PoolIx) : s.takeMove.timer j = s.timer j := by simp [State.timer]
@[simp] theorem State.overtaken_takeMove : s.takeMove.overtaken = s.overtaken := by
  unfold State.takeMove; split <;> rfl
@[simp] theorem State.enabledInUse_takeMove : s.takeMove.enabledInUse = s.enabledInUse := by
  simp [State.enabledInUse]

theorem State.chan_of_shared (h : t.shared = u.shared) (ch : ChIx) : t.chan ch = u.chan ch :=
  congrArg (fun r => r.chans.get ch) h
theorem State.timer_of_shared (h : t.shared = u.shared) (j : PoolIx) : t.timer j = u.timer j :=
  congrArg (fun r => r.timers.get j) h

/-- A handler's micro-step is one of its effects, but for `ISR_FRAME`, the fault and what the exit writes. -/
theorem HandlerMicro.effect {f : IsrFrame} (h : HandlerMicro f s t) : ∃ u, HandlerEffect f s u ∧ t.shared = u.shared := by
  cases h with
  | goes g l he _ => exact ⟨_, he, rfl⟩
  | invokes l id he => exact ⟨_, he, rfl⟩
  | stays => exact ⟨_, .same, rfl⟩
  | fault c he _ => exact ⟨_, he, State.shared_raiseFault c⟩
  | exits _ => exact ⟨_, .same, rfl⟩

/-- Only a move of a sequencer is a micro-step of a command. -/
theorem State.nextMove_of_nextCommand {i : Instr} (h : s.nextCommand = some i) :
    s.nextMove = .fg ∨ ∃ line, s.nextMove = .isr line := by
  unfold State.nextCommand at h
  split at h
  · exact .inl ‹_›
  · exact .inr ⟨_, ‹_›⟩
  · cases h

theorem State.fgCommand_of_frame {f : CmdFrame} (h : s.fgFrame = some f) : s.fgCommand = some f.cmd := by
  simp [State.fgCommand, h]

theorem State.fgCommand_of_word {w : Word} {i : Instr} (h : s.fgFrame = none) (hw : fetch s.fgWords s.pc = .word w)
    (hd : decode w = .ok i) : s.fgCommand = some i := by
  simp [State.fgCommand, h, hw, hd, Except.toOption]

theorem State.listCommand_of_frame {f : IsrFrame} {l : ListFrame} {rest : List ListFrame} {c : CmdFrame}
    (hf : s.isrFrame = some f) (hl : f.stack = l :: rest) (hc : l.frame = some c) : s.listCommand = some c.cmd := by
  simp [State.listCommand, State.listStack, hf, hl, hc]

theorem State.listCommand_of_word {f : IsrFrame} {l : ListFrame} {rest : List ListFrame} {w : Word} {i : Instr}
    (hf : s.isrFrame = some f) (hl : f.stack = l :: rest) (hc : l.frame = none)
    (hw : fetch (listWords s.cfg l.list) l.pc = .word w) (hd : decode w = .ok i) : s.listCommand = some i := by
  simp [State.listCommand, State.listStack, hf, hl, hc, hw, hd, Except.toOption]

@[simp] theorem State.fgCommand_takeMove : s.takeMove.fgCommand = s.fgCommand := by
  unfold State.takeMove; split <;> rfl
@[simp] theorem State.listCommand_takeMove : s.takeMove.listCommand = s.listCommand := by
  unfold State.takeMove; split <;> rfl

/-- A move of `FG` is a micro-step of the foreground command, or leaves the shared registers alone. -/
theorem fgStep_kinds (h : fgStep s = .next t) :
    (s.fgMayStep = true ∧ ∃ i, s.fgCommand = some i ∧ exec i s = .next t) ∨ t.shared = s.shared := by
  obtain rfl | ⟨hm, f, hf, h⟩ | ⟨hm, hf, w, hw, ⟨i, hi, h⟩ | ⟨e, -, rfl⟩⟩ := fgStep_cases h
  · exact .inr rfl
  · exact .inl ⟨hm, f.cmd, State.fgCommand_of_frame hf, h⟩
  · exact .inl ⟨hm, i, State.fgCommand_of_word hf hw hi, h⟩
  · exact .inr (State.shared_raiseFault _)

/-- A move of `ISR` is a micro-step of its list's command or of its handler, or leaves the shared registers alone. -/
theorem isrStep_kinds {line : Line} (h : isrStep line s = .next t) :
    ((s.fault = false ∧ s.isrActive = true) ∧
        ((∃ i, s.listCommand = some i ∧ exec i s = .next t)
          ∨ ∃ f, s.isrFrame = some f ∧ f.stack = [] ∧ t = handlerStep f s))
      ∨ t.shared = s.shared := by
  obtain rfl | ⟨-, -, -, rfl⟩ | ⟨hf, ha, f, hfr, ⟨hnil, rfl⟩ | ⟨l, rest, hl, hlist⟩⟩ := isrStep_cases h
  · exact .inr rfl
  · exact .inr rfl
  · exact .inl ⟨⟨hf, ha⟩, .inr ⟨f, hfr, hnil, rfl⟩⟩
  obtain ⟨c, hc, h⟩ | ⟨-, -, rfl⟩ | ⟨hc, w, hw, ⟨i, hi, h⟩ | ⟨e, -, rfl⟩⟩ := hlist
  · exact .inl ⟨⟨hf, ha⟩, .inl ⟨c.cmd, State.listCommand_of_frame hfr hl hc, h⟩⟩
  · exact .inr rfl
  · exact .inl ⟨⟨hf, ha⟩, .inl ⟨i, State.listCommand_of_word hfr hl hc hw hi, h⟩⟩
  · exact .inr (State.shared_raiseFault _)

/-- The moves of the other agents and of the host leave the shared registers alone, but for a tick. -/
theorem moveStep_kinds {m : Move} (hfg : m ≠ .fg) (hisr : ∀ line, m ≠ .isr line) (h : moveStep m s = .next t) :
    (∃ d, m = .cnt d ∧ t = s.tick d) ∨ t.shared = s.shared := by
  cases m with
  | fg => exact absurd rfl hfg
  | isr line => exact absurd rfl (hisr line)
  | cnt d => cases h; unfold cntStep; split; exacts [.inl ⟨d, rfl, rfl⟩, .inr rfl]
  | settle => cases h; unfold settleStep; split <;> exact .inr rfl
  | osc x => cases h; cases x <;> simp only [oscStep] <;> split <;> exact .inr rfl
  | envRadio => cases h; exact .inr rfl
  | envPower => cases h; exact .inr rfl
  | envWake => cases h; unfold envWakeStep; split <;> exact .inr rfl
  | hostRead addr n => cases h; unfold hostReadStep; split; exacts [.inr rfl, .inr (State.shared_raiseFault _)]
  | hostWrite addr n v =>
    cases h
    unfold hostWriteStep
    split
    · obtain ⟨hi, -⟩ | ⟨hi, -⟩ | ⟨hi, -⟩ := issue_cases s v <;> rw [hi] <;> exact .inr rfl
    · exact .inr (State.shared_raiseFault _)

/-- A step is a micro-step of a command, a micro-step of a handler, a tick, or leaves the shared registers alone. -/
theorem step_kinds (h : step s = .next t) :
    (∃ i, s.nextCommand = some i ∧ ∃ u v, Effect i s.takeMove u ∧ t = u.withBook v)
      ∨ (∃ f, s.handlerNext f f.label ∧ ∃ u, HandlerEffect f s.takeMove u ∧ t.shared = u.shared)
      ∨ (∃ d, s.nextMove = .cnt d ∧ t = s.takeMove.tick d)
      ∨ t.shared = s.shared := by
  rw [step_eq] at h
  by_cases hfg : s.nextMove = .fg
  · rw [hfg] at h
    obtain ⟨hm, i, hi, hx⟩ | hsame := fgStep_kinds h
    · have hm : s.fgMayStep = true := by simpa using hm
      exact .inl ⟨i, by simpa [State.nextCommand, hfg, hm] using hi, exec_effect hx⟩
    · exact .inr (.inr (.inr (by simpa using hsame)))
  by_cases hisr : ∃ line, s.nextMove = .isr line
  · obtain ⟨line, hline⟩ := hisr
    rw [hline] at h
    obtain ⟨⟨hf, ha⟩, ⟨i, hi, hx⟩ | ⟨f, hfr, hnil, rfl⟩⟩ | hsame := isrStep_kinds h
    · have hf : s.fault = false := by simpa using hf
      have ha : s.isrActive = true := by simpa using ha
      exact .inl ⟨i, by simpa [State.nextCommand, hline, hf, ha] using hi, exec_effect hx⟩
    · exact .inr (.inl ⟨f, ⟨⟨line, hline⟩, by simpa using hf, by simpa using ha, by simpa using hfr, rfl, hnil⟩,
        (handlerStep_micro f s.takeMove).effect⟩)
    · exact .inr (.inr (.inr (by simpa using hsame)))
  · obtain ⟨d, hd, rfl⟩ | hsame := moveStep_kinds hfg (fun line hl => hisr ⟨line, hl⟩) h
    · exact .inr (.inr (.inl ⟨d, hd, rfl⟩))
    · exact .inr (.inr (.inr (by simpa using hsame)))

end

/-! ## What the handlers and the counter write -/

section

variable {s u : State}

theorem State.chan_setChan (c ch : ChIx) (v : Channel) :
    (s.setChan c v).chan ch = if ch = c then v else s.chan ch := by
  split
  · rename_i h; rw [h, State.chan_setChan_self]
  · rename_i h; exact State.chan_setChan_ne _ _ _ h

theorem State.timer_setTimer (i j : PoolIx) (v : Timer) :
    (s.setTimer i v).timer j = if j = i then v else s.timer j := by
  split
  · rename_i h; rw [h, State.timer_setTimer_self]
  · rename_i h; exact State.timer_setTimer_ne _ _ _ h

/-- A channel that is written without being enabled enables nothing. -/
theorem State.inten_setChan {c ch : ChIx} {v : Channel} (h : ((s.setChan c v).chan ch).inten = true)
    (hv : v.inten = true → (s.chan c).inten = true) : (s.chan ch).inten = true := by
  rw [State.chan_setChan] at h
  split at h
  · rename_i hc; rw [hc]; exact hv h
  · exact h

/-- A timer that is written with its own callback keeps every callback. -/
theorem State.cbId_setTimer {i j : PoolIx} {v : Timer} (hv : v.cbId = (s.timer i).cbId) :
    ((s.setTimer i v).timer j).cbId = (s.timer j).cbId := by
  rw [State.timer_setTimer]
  split
  · rename_i hj; rw [hj]; exact hv
  · rfl

namespace HandlerEffect

variable {f : IsrFrame}

/-- What no handler writes of the shared registers. -/
theorem others_eq (h : HandlerEffect f s u) :
    u.res = s.res ∧ u.sane = s.sane ∧ u.lastNow = s.lastNow ∧ u.counter = s.counter := by
  cases h <;> simp

theorem ovf_eq_or (h : HandlerEffect f s u) : u.ovf = s.ovf ∨ (u.ovf = s.ovf + 1 ∧ f.label = .ovfCount) := by
  cases h with
  | overflow hl =>
    unfold State.countOverflow
    split
    · exact .inr ⟨rfl, hl⟩
    · exact .inl rfl
  | _ => exact .inl (by simp)

theorem inten (h : HandlerEffect f s u) {ch : ChIx} (hu : (u.chan ch).inten = true) : (s.chan ch).inten = true := by
  cases h with
  | overflow _ => simpa [State.chan] using hu
  | scan j =>
    unfold State.scanIndex at hu
    split at hu
    · exact State.inten_setChan hu nofun
    · exact hu
  | disarm j => exact State.inten_setChan hu nofun
  | clearEvent j => exact State.inten_setChan hu id
  | scanTask =>
    unfold State.scanTask at hu
    split at hu
    · exact State.inten_setChan hu nofun
    · exact hu
  | runTask id => exact State.inten_setChan hu nofun
  | _ => exact hu

theorem cbId_eq (h : HandlerEffect f s u) (j : PoolIx) : (u.timer j).cbId = (s.timer j).cbId := by
  cases h with
  | overflow _ => simp [State.timer]
  | scan i =>
    unfold State.scanIndex
    split
    · exact State.cbId_setTimer rfl
    · rfl
  | free i _ _ _ => exact State.cbId_setTimer rfl
  | scanTask => simp [State.timer]
  | _ => rfl

end HandlerEffect

theorem State.inten_tick (d : Draws) (ch : ChIx) : ((s.tick d).chan ch).inten = (s.chan ch).inten := by
  cases ch <;> simp only [State.chan, Channels.get, State.tick, Channel.onTick] <;> split <;> (try split) <;> rfl

/-- A step that is no micro-step of a command leaves `RES`, `SANE`, `LAST_NOW` and every `CBID`, and enables no channel. -/
theorem step_command_or_quiet {t : State} (h : step s = .next t) :
    (∃ i, s.nextCommand = some i ∧ ∃ u v, Effect i s.takeMove u ∧ t = u.withBook v)
      ∨ (t.res = s.res ∧ t.sane = s.sane ∧ t.lastNow = s.lastNow ∧ (∀ j, (t.timer j).cbId = (s.timer j).cbId)
          ∧ ∀ ch, (t.chan ch).inten = true → (s.chan ch).inten = true) := by
  obtain hcmd | ⟨f, -, u, he, ht⟩ | ⟨d, -, rfl⟩ | ht := step_kinds h
  · exact .inl hcmd
  · obtain ⟨hres, hsane, hlast, -⟩ := he.others_eq
    refine .inr ⟨?_, ?_, ?_, fun j => ?_, fun ch hch => ?_⟩
    · exact (congrArg Shared.res ht).trans (hres.trans (by simp))
    · exact (congrArg Shared.sane ht).trans (hsane.trans (by simp))
    · exact (congrArg Shared.lastNow ht).trans (hlast.trans (by simp))
    · simpa [State.timer_of_shared ht] using he.cbId_eq j
    · simpa using he.inten (by rwa [← State.chan_of_shared ht])
  · exact .inr ⟨by simp, by simp, by simp, fun j => by simp [State.timer], fun ch hch => by
      simpa [State.inten_tick] using hch⟩
  · exact .inr ⟨congrArg Shared.res ht, congrArg Shared.sane ht, congrArg Shared.lastNow ht,
      fun j => by rw [State.timer_of_shared ht], fun ch hch => by rwa [← State.chan_of_shared ht]⟩

end

/-! ## Who writes what -/

section

variable {i : Instr} {s u t : State}

theorem eq_of_runsSleepBody (h : runsSleepBody i = true) :
    i = .hfStartDelay ∨ (∃ d, i = .slpTimeout d) ∨ ∃ d, i = .slpDuration d :=
  runsSleepBody_cases (p := fun i => i = .hfStartDelay ∨ (∃ d, i = .slpTimeout d) ∨ ∃ d, i = .slpDuration d) h
    (fun t => .inr (.inl ⟨t, rfl⟩)) (fun d => .inr (.inr ⟨d, rfl⟩)) (.inl rfl)

theorem asksTime_cases (h : asksTime i = true) :
    i = .clkNow ∨ (∃ idx cb d, i = .tmrStart idx cb d) ∨ (∃ id d, i = .taskSched id d) ∨ runsSleepBody i = true := by
  unfold asksTime at h
  split at h
  · exact .inl rfl
  · exact .inr (.inl ⟨_, _, _, rfl⟩)
  · exact .inr (.inr (.inl ⟨_, _, rfl⟩))
  · exact .inr (.inr (.inr h))

theorem takenWith_cases {cb : BitVec 2} (h : takenWith i = some cb) :
    (∃ idx d, i = .tmrStart idx cb d) ∨ (runsSleepBody i = true ∧ cb = 0) := by
  unfold takenWith at h
  split at h
  · cases h; exact .inl ⟨_, _, rfl⟩
  · split at h
    · cases h; exact .inr ⟨‹_›, rfl⟩
    · cases h

theorem step_res (h : step s = .next t) (hne : t.res ≠ s.res) : ∃ i, s.nextCommand = some i ∧ isQuery i = true := by
  obtain ⟨i, hi, u, v, he, rfl⟩ | ⟨hres, -⟩ := step_command_or_quiet h
  · refine ⟨i, hi, ?_⟩
    by_contra hq
    exact hne ((he.res_eq (by simpa using hq)).trans (by simp))
  · exact absurd hres hne

theorem step_sane (h : step s = .next t) (hne : t.sane ≠ s.sane) : s.nextCommand = some (.slpSetSane t.sane) := by
  obtain ⟨i, hi, u, v, he, rfl⟩ | ⟨-, hsane, -⟩ := step_command_or_quiet h
  · obtain hsane | hset := he.sane_eq_or
    · exact absurd (hsane.trans (by simp)) hne
    · exact hset ▸ hi
  · exact absurd hsane hne

theorem step_lastNow (h : step s = .next t) (hne : t.lastNow ≠ s.lastNow) :
    ∃ i, s.nextCommand = some i ∧ (asksTime i = true ∨ i = .clkStart ∨ i = .clkReset0) := by
  obtain ⟨i, hi, u, v, he, rfl⟩ | ⟨-, -, hlast, -⟩ := step_command_or_quiet h
  · refine ⟨i, hi, he.lastNow_eq_or.resolve_left fun hlast => hne (hlast.trans (by simp))⟩
  · exact absurd hlast hne

theorem step_ovf (h : step s = .next t) (hne : t.ovf ≠ s.ovf) :
    (t.ovf = 0 ∧ (s.nextCommand = some .clkStart ∨ s.nextCommand = some .clkReset0))
      ∨ (t.ovf = s.ovf + 1 ∧ ∃ f, s.handlerNext f .ovfCount) := by
  obtain ⟨i, hi, u, v, he, rfl⟩ | ⟨f, hf, u, he, ht⟩ | ⟨d, -, rfl⟩ | ht := step_kinds h
  · obtain hovf | ⟨hzero, hcmd⟩ := he.ovf_eq_or
    · exact absurd (hovf.trans (by simp)) hne
    · exact .inl ⟨hzero, hcmd.imp (fun h => hi.trans (congrArg some h)) fun h => hi.trans (congrArg some h)⟩
  · have ht : t.ovf = u.ovf := congrArg Shared.ovf ht
    obtain hovf | ⟨hovf, hl⟩ := he.ovf_eq_or
    · exact absurd (ht.trans (hovf.trans (by simp))) hne
    · exact .inr ⟨by simpa using ht.trans hovf, f, hl ▸ hf⟩
  · exact absurd (by simp) hne
  · exact absurd (congrArg Shared.ovf ht) hne

theorem step_counter (h : step s = .next t) (hne : t.counter ≠ s.counter) :
    (t.counter = 0 ∧ s.nextCommand = some .clkStart) ∨ (t.counter = s.counter + 1 ∧ ∃ d, s.nextMove = .cnt d) := by
  obtain ⟨i, hi, u, v, he, rfl⟩ | ⟨f, hf, u, he, ht⟩ | ⟨d, hd, rfl⟩ | ht := step_kinds h
  · obtain hsame | ⟨hzero, hcmd⟩ := he.counter_eq_or
    · exact absurd (hsame.trans (by simp)) hne
    · exact .inl ⟨hzero, hcmd ▸ hi⟩
  · obtain ⟨-, -, -, hsame⟩ := he.others_eq
    exact absurd ((congrArg Shared.counter ht).trans (hsame.trans (by simp))) hne
  · exact .inr ⟨by simp [State.tick], d, hd⟩
  · exact absurd (congrArg Shared.counter ht) hne

/-! ## The compare enables and the callbacks -/

/-- The pool initialisation disables every channel and resets the callbacks it reaches (40_clock.md R105). -/
theorem State.inten_startClock {ch : ChIx} (h : (s.startClock.chan ch).inten = true) : (s.chan ch).inten = true := by
  unfold State.startClock at h
  dsimp only at h
  split at h
  · exact h
  · cases ch <;> cases h

theorem State.cbId_startClock (j : PoolIx) :
    (s.startClock.timer j).cbId = (s.timer j).cbId ∨ ((s.startClock.timer j).cbId = 0 ∧ s.poolInit = false) := by
  unfold State.startClock
  dsimp only
  split
  · exact .inl rfl
  · rename_i hp
    have hp : s.poolInit = false := by simpa using hp
    cases j with
    | t0 => exact .inr ⟨rfl, hp⟩
    | t1 => exact .inr ⟨rfl, hp⟩
    | t2 =>
      simp only [State.initPool, State.timer, Timers.get]
      split
      · exact .inr ⟨rfl, hp⟩
      · exact .inl rfl

/-- A commit writes the enable of its channel, and of the timers at most an expired flag (41_timer.md R143). -/
theorem State.cbId_commitArm {ch : ChIx} {d t0 : Ticks} (j : PoolIx) :
    ((s.commitArm ch d t0).timer j).cbId = (s.timer j).cbId := by
  unfold State.commitArm
  dsimp only
  split
  · cases ch <;> simp only [State.markExpired]
    case ch3 => rfl
    all_goals exact State.cbId_setTimer (s := s.setChan _ _) rfl
  · rfl

theorem Effect.inten (h : Effect i s u) (hi : armsATimer i = false) {ch : ChIx} (hu : (u.chan ch).inten = true) :
    (s.chan ch).inten = true := by
  cases h with
  | start _ => exact State.inten_startClock hu
  | compare c v _ _ => exact State.inten_setChan hu id
  | commit c d t0 ha _ _ => simp [hi] at ha
  | take j cb _ _ _ => exact State.inten_setChan (s := s.setTimer j _) hu nofun
  | takeTask id d _ _ =>
    exact State.inten_setChan (s := { s with taskInUse := true, taskId := id, taskExpired := false }) hu nofun
  | disarm j _ => exact State.inten_setChan hu nofun
  | clearEvent j _ => exact State.inten_setChan hu id
  | request x _ => simpa [State.chan] using hu
  | _ => exact hu

/-- A callback changes where a timer is taken, or the pool initialised (41_timer.md R145, 40_clock.md R105). -/
theorem Effect.cbId (h : Effect i s u) {j : PoolIx} (hne : (u.timer j).cbId ≠ (s.timer j).cbId) :
    (timerOf s.cfg.nTimers i = some j ∧ takenWith i = some (u.timer j).cbId ∧ (s.timer j).inUse = false)
      ∨ ((u.timer j).cbId = 0 ∧ InitsPool i s) := by
  cases h with
  | start hi =>
    obtain hsame | ⟨hzero, hp⟩ := s.cbId_startClock j
    · exact absurd hsame hne
    · exact .inr ⟨hzero, hi, hp⟩
  | commit c d t0 _ _ _ => exact absurd (State.cbId_commitArm j) hne
  | take k cb hk hcb hfree =>
    by_cases hj : j = k
    · rw [hj]
      refine .inl ⟨hk, ?_, hfree⟩
      rw [State.timer_setChan, State.timer_setTimer_self]
      exact hcb
    · rw [State.timer_setChan, State.timer_setTimer_ne _ _ _ hj] at hne
      exact absurd rfl hne
  | free k _ _ => exact (hne (State.cbId_setTimer rfl)).elim
  | request x _ => exact absurd (by simp [State.timer]) hne
  | _ => exact absurd rfl hne

theorem step_inten (h : step s = .next t) {ch : ChIx} (hs : (s.chan ch).inten = false) (ht : (t.chan ch).inten = true) :
    ∃ i, s.nextCommand = some i ∧ armsATimer i = true := by
  obtain ⟨i, hi, u, v, he, rfl⟩ | ⟨-, -, -, -, hquiet⟩ := step_command_or_quiet h
  · refine ⟨i, hi, ?_⟩
    by_contra harm
    have := he.inten (by simpa using harm) ht
    simp [hs] at this
  · simp [hquiet ch ht] at hs

theorem step_cbId (h : step s = .next t) {j : PoolIx} (hne : (t.timer j).cbId ≠ (s.timer j).cbId) :
    (∃ idx d, s.nextCommand = some (.tmrStart idx (t.timer j).cbId d) ∧ poolIx? s.cfg.nTimers idx = some j
        ∧ (s.timer j).inUse = false)
      ∨ (j = .t0 ∧ (t.timer j).cbId = 0 ∧ (s.timer j).inUse = false
          ∧ ∃ i, s.nextCommand = some i ∧ (i = .hfStartDelay ∨ (∃ d, i = .slpTimeout d) ∨ ∃ d, i = .slpDuration d))
      ∨ ((t.timer j).cbId = 0 ∧ s.nextCommand = some .clkStart ∧ s.poolInit = false) := by
  obtain ⟨i, hi, u, v, he, rfl⟩ | ⟨-, -, -, hquiet, -⟩ := step_command_or_quiet h
  · obtain ⟨hj, hcb, hfree⟩ | ⟨hzero, hstart, hp⟩ := he.cbId (j := j) (by rw [State.timer_takeMove]; exact hne)
    · rw [State.takeMove_cfg] at hj
      rw [State.timer_takeMove] at hfree
      obtain ⟨idx, d, rfl⟩ | ⟨hbody, hzero⟩ := takenWith_cases hcb
      · exact .inl ⟨idx, d, hi, hj, hfree⟩
      · obtain rfl : PoolIx.t0 = j := Option.some.inj ((timerOf_of_runsSleepBody _ hbody).symm.trans hj)
        exact .inr (.inl ⟨rfl, hzero, hfree, i, hi, eq_of_runsSleepBody hbody⟩)
    · exact .inr (.inr ⟨hzero, hstart ▸ hi, by simpa using hp⟩)
  · exact absurd (hquiet j) hne

end

/-! ## Enabled channels and timers in use -/

section

variable {i : Instr} {s t u : State}

theorem State.chanInUse_chan (j : PoolIx) : s.chanInUse j.chan = (s.timer j).inUse := by cases j <;> rfl

/-- R150's claim on the enables, channel by channel. -/
theorem State.enabledInUse_iff : s.enabledInUse = true ↔ ∀ ch, (s.chan ch).inten = true → s.chanInUse ch = true := by
  have imp : ∀ a b : Bool, (!a || b) = true ↔ (a = true → b = true) := by decide
  simp only [State.enabledInUse, Bool.and_eq_true, imp]
  constructor
  · rintro ⟨⟨⟨h0, h1⟩, h2⟩, h3⟩ ch
    cases ch
    exacts [h0, h1, h2, h3]
  · intro h
    exact ⟨⟨⟨h .ch0, h .ch1⟩, h .ch2⟩, h .ch3⟩

/-- Nothing is enabled and no timer given up. -/
theorem State.enabledInUse_of_le (h : s.enabledInUse = true)
    (hch : ∀ ch, (u.chan ch).inten = true → (s.chan ch).inten = true)
    (huse : ∀ ch, s.chanInUse ch = true → u.chanInUse ch = true) : u.enabledInUse = true :=
  State.enabledInUse_iff.mpr fun ch hu => huse ch (State.enabledInUse_iff.mp h ch (hch ch hu))

theorem State.chanInUse_of_shared (h : t.shared = u.shared) (ch : ChIx) : t.chanInUse ch = u.chanInUse ch := by
  cases ch
  case ch3 => exact congrArg Shared.taskInUse h
  case ch0 => exact congrArg (·.timers.p0.inUse) h
  case ch1 => exact congrArg (·.timers.p1.inUse) h
  case ch2 => exact congrArg (·.timers.p2.inUse) h

theorem State.enabledInUse_of_shared (h : t.shared = u.shared) : t.enabledInUse = u.enabledInUse := by
  rw [Bool.eq_iff_iff, State.enabledInUse_iff, State.enabledInUse_iff]
  simp only [State.chan_of_shared h, State.chanInUse_of_shared h]

/-- A channel may be enabled while its timer is in use. -/
theorem State.enabledInUse_setChan (h : s.enabledInUse = true) {ch : ChIx} {v : Channel}
    (hv : v.inten = true → s.chanInUse ch = true) : (s.setChan ch v).enabledInUse = true := by
  refine State.enabledInUse_iff.mpr fun c hc => ?_
  have same : (s.setChan ch v).chanInUse c = s.chanInUse c := by cases c <;> rfl
  rw [same]
  rw [State.chan_setChan] at hc
  split at hc
  · rename_i hcc; rw [hcc]; exact hv hc
  · exact State.enabledInUse_iff.mp h c hc

/-- A timer may be given up while its channel is disabled. -/
theorem State.enabledInUse_setTimer (h : s.enabledInUse = true) {j : PoolIx} {v : Timer}
    (hv : (s.chan j.chan).inten = true → v.inUse = true) : (s.setTimer j v).enabledInUse = true := by
  refine State.enabledInUse_iff.mpr fun c hc => ?_
  rw [State.chan_setTimer] at hc
  by_cases hcj : c = j.chan
  · rw [hcj, State.chanInUse_chan, State.timer_setTimer_self]
    exact hv (hcj ▸ hc)
  · have same : (s.setTimer j v).chanInUse c = s.chanInUse c := by
      cases j <;> cases c <;> simp_all [State.chanInUse, State.setTimer, Timers.set, PoolIx.chan]
    rw [same]
    exact State.enabledInUse_iff.mp h c hc

/-- The task timer may be given up while its channel is disabled. -/
theorem State.enabledInUse_setTask (h : s.enabledInUse = true) {a b : Bool} {id : BitVec 2}
    (ha : (s.chan .ch3).inten = true → a = true) :
    { s with taskInUse := a, taskExpired := b, taskId := id }.enabledInUse = true := by
  refine State.enabledInUse_iff.mpr fun c hc => ?_
  cases c
  case ch3 => exact ha hc
  all_goals exact State.enabledInUse_iff.mp h _ hc

theorem State.enabledInUse_startClock (h : s.enabledInUse = true) : s.startClock.enabledInUse = true := by
  unfold State.startClock
  dsimp only
  split
  · exact h
  · exact State.enabledInUse_iff.mpr fun ch hch => by cases ch <;> cases hch

/-- The commit of an arm whose timer is in use (41_timer.md R143). -/
theorem State.enabledInUse_commitArm (h : s.enabledInUse = true) {ch : ChIx} {d t0 : Ticks}
    (hu : s.chanInUse ch = true) : (s.commitArm ch d t0).enabledInUse = true := by
  have harmed := State.enabledInUse_setChan h (v := { s.chan ch with evt := false, inten := true }) fun _ => hu
  unfold State.commitArm
  dsimp only
  split
  · cases ch
    case ch3 => exact State.enabledInUse_setTask (b := true) (id := s.taskId) harmed fun _ => hu
    all_goals exact State.enabledInUse_setTimer harmed fun _ => hu
  · exact harmed

/-! ### The operations that are not overtaken -/

theorem State.chanInUse_of_not_overtaken (ho : s.overtaken = false) {ch : ChIx} (hb : s.BeforeCommit ch) :
    s.chanInUse ch = true := by
  obtain ⟨f, hf, hc⟩ := hb
  simp only [State.overtaken, hf, hc, Bool.or_eq_false_iff] at ho
  obtain ⟨huse, -⟩ := ho
  simpa using huse

theorem State.inten_of_not_overtaken (ho : s.overtaken = false) {j : PoolIx} (hb : s.BeforeFree j) :
    (s.chan j.chan).inten = false := by
  obtain ⟨f, hf, hc⟩ := hb
  simp only [State.overtaken, hf, hc, Bool.or_eq_false_iff] at ho
  obtain ⟨-, hinten⟩ := ho
  exact hinten

theorem Effect.enabledInUse (he : Effect i s u) (ho : s.overtaken = false) (h : s.enabledInUse = true) :
    u.enabledInUse = true := by
  cases he with
  | start _ => exact State.enabledInUse_startClock h
  | compare ch v _ _ => exact State.enabledInUse_setChan h (State.enabledInUse_iff.mp h ch)
  | commit ch d t0 _ _ hb => exact State.enabledInUse_commitArm h (State.chanInUse_of_not_overtaken ho hb)
  | take j cb _ _ _ => exact State.enabledInUse_setChan (State.enabledInUse_setTimer h fun _ => rfl) nofun
  | takeTask id d _ _ => exact State.enabledInUse_setChan (State.enabledInUse_setTask h fun _ => rfl) nofun
  | disarm j _ => exact State.enabledInUse_setChan h nofun
  | clearEvent j _ => exact State.enabledInUse_setChan h (State.enabledInUse_iff.mp h j.chan)
  | free j _ hb => exact State.enabledInUse_setTimer h (by simp [State.inten_of_not_overtaken ho hb])
  | request x _ => simpa [State.enabledInUse] using h
  | _ => exact h

/-- While a handler steps, no list stands on its stack, and no command is under execution. -/
theorem State.frame_of_handlerNext {f : IsrFrame} {l : HandlerLabel} (hf : s.handlerNext f l) : s.frame = none := by
  obtain ⟨-, -, ha, hfr, -, hnil⟩ := hf
  simp [State.frame, State.ctx, ha, State.listStack, hfr, hnil]

theorem State.overtaken_of_expireStop {f : IsrFrame} {j : PoolIx} {cb : BitVec 2} {todo : List PoolIx}
    (hf : s.handlerNext f (.expireStop j cb .s3 todo)) : s.overtaken = (s.chan j.chan).inten := by
  have hnone := State.frame_of_handlerNext hf
  obtain ⟨-, -, -, hfr, hl, hnil⟩ := hf
  simp [State.overtaken, hnone, hfr, hnil, hl]

theorem State.overtaken_of_taskDone {f : IsrFrame} (hf : s.handlerNext f .taskDone) :
    s.overtaken = (s.chan .ch3).inten := by
  have hnone := State.frame_of_handlerNext hf
  obtain ⟨-, -, -, hfr, hl, hnil⟩ := hf
  simp [State.overtaken, hnone, hfr, hnil, hl]

theorem HandlerEffect.enabledInUse {f : IsrFrame} (he : HandlerEffect f s u) (h : s.enabledInUse = true)
    (hfree : ∀ j cb todo, f.label = .expireStop j cb .s3 todo → (s.chan j.chan).inten = false)
    (hrelease : f.label = .taskDone → (s.chan .ch3).inten = false) : u.enabledInUse = true := by
  cases he with
  | overflow _ => simpa [State.enabledInUse] using h
  | scan j =>
    unfold State.scanIndex
    split
    · exact State.enabledInUse_setTimer (State.enabledInUse_setChan h (by simp)) (by simp)
    · exact h
  | disarm j => exact State.enabledInUse_setChan h nofun
  | clearEvent j => exact State.enabledInUse_setChan h (State.enabledInUse_iff.mp h j.chan)
  | free j cb todo hl => exact State.enabledInUse_setTimer h (by simp [hfree j cb todo hl])
  | scanTask =>
    unfold State.scanTask
    split
    · exact State.enabledInUse_setTask
        (State.enabledInUse_setChan h (v := { s.chan .ch3 with inten := false, evt := false }) nofun) (by simp)
    · exact h
  | runTask id => exact State.enabledInUse_setChan h (v := { s.chan .ch3 with inten := false, evt := false }) nofun
  | release hl => exact State.enabledInUse_setTask h (by simp [hrelease hl])
  | _ => exact h

/-- R150 of a step that is not overtaken: an enabled channel stays one of a timer in use. -/
theorem step_enabledInUse (h : step s = .next t) (hs : s.enabledInUse = true)
    (ho : s.overtaken = false ∨ (s.nextMove ≠ .fg ∧ ∀ line, s.nextMove ≠ .isr line)) : t.enabledInUse = true := by
  obtain ⟨i, hi, u, v, he, rfl⟩ | ⟨f, hf, u, he, ht⟩ | ⟨d, -, rfl⟩ | ht := step_kinds h
  · have ho : s.overtaken = false := ho.resolve_right fun ⟨hfg, hisr⟩ =>
      (State.nextMove_of_nextCommand hi).elim hfg fun ⟨line, hline⟩ => hisr line hline
    exact he.enabledInUse (by simpa using ho) (by simpa using hs)
  · have ⟨⟨line, hline⟩, _⟩ := hf
    have ho : s.overtaken = false := ho.resolve_right fun ⟨_, hisr⟩ => hisr line hline
    rw [State.enabledInUse_of_shared ht]
    refine he.enabledInUse (by simpa using hs) (fun j cb todo hl => ?_) fun hl => ?_
    · simpa [State.overtaken_of_expireStop (hl ▸ hf)] using ho
    · simpa [State.overtaken_of_taskDone (hl ▸ hf)] using ho
  · refine State.enabledInUse_of_le hs (fun ch hch => ?_) fun ch hch => ?_
    · simpa [State.inten_tick] using hch
    · cases ch <;> simpa [State.chanInUse] using hch
  · rwa [State.enabledInUse_of_shared ht]

/-- Settles O55: each clause is read off the effects of the step. -/
theorem writersOfTheSharedRegisters : Obligations.WritersOfTheSharedRegisters := by
  intro s t h
  refine ⟨step_res h, step_ovf h, step_sane h, step_counter h, fun hne => ?lastNow, fun _ => step_inten h,
    fun _ => step_cbId h, step_enabledInUse h⟩
  case lastNow =>
    obtain ⟨i, hi, htime | rfl | rfl⟩ := step_lastNow h hne
    · refine ⟨i, hi, ?_⟩
      obtain hnow | hstart | hsched | hbody := asksTime_cases htime
      · exact .inr (.inr (.inl hnow))
      · exact .inr (.inr (.inr (.inr (.inl hstart))))
      · exact .inr (.inr (.inr (.inr (.inr (.inl hsched)))))
      · obtain hdelay | hsleep := eq_of_runsSleepBody hbody
        · exact .inr (.inr (.inr (.inl hdelay)))
        · exact .inr (.inr (.inr (.inr (.inr (.inr hsleep)))))
    · exact ⟨_, hi, .inl rfl⟩
    · exact ⟨_, hi, .inr (.inl rfl)⟩

end

end Sys2Proof.Machine
end

section
/-! SUPPORT. The register window: what a host access reaches, and what the registers at their offsets read. -/

namespace Sys2Proof.Machine

section

variable (s : State)

/-! ## Accesses that are refused -/

/-- A read of an offset that is misaligned, of `CMD`, unmapped, or not four bytes wide has no value (20_memory.md R65). -/
theorem memRead_refused {addr : Word} {n : Nat}
    (h : n ≠ 4 ∨ (addr - s.cfg.base).toNat % 4 ≠ 0 ∨ (addr - s.cfg.base).toNat = 0
      ∨ 0x54 ≤ (addr - s.cfg.base).toNat) : s.memRead addr n = none := by
  by_cases hw : n ≠ 4 ∨ (addr - s.cfg.base).toNat % 4 ≠ 0
  · rw [State.memRead, target_refused s hw]; rfl
  rw [State.memRead, State.target]
  generalize (addr - s.cfg.base).toNat = off at h hw ⊢
  obtain ⟨rfl, h4⟩ : n = 4 ∧ off % 4 = 0 := by simpa using hw
  rw [if_pos ⟨rfl, h4⟩]
  obtain rfl | hoff : off = 0 ∨ 0x54 ≤ off := by simpa [h4] using h
  · rfl
  · have hreg : regAt off = none := by
      unfold regAt
      split
      case h_22 => rfl
      all_goals omega
    rw [hreg]; rfl

/-- The aligned offsets from 4 to 0x50 are those of the 20 readable registers (10_state.md R44). -/
theorem regAt_readable {off : Nat} (h4 : off % 4 = 0) (hlo : 4 ≤ off) (hhi : off ≤ 0x50) :
    ∃ r, regAt off = some r ∧ r ≠ .cmd := by
  obtain ⟨k, rfl⟩ : ∃ k, off = 4 * k := ⟨off / 4, by omega⟩
  have h1 : 1 ≤ k := by omega
  have h20 : k ≤ 20 := by omega
  interval_cases k <;> exact ⟨_, rfl, nofun⟩

theorem memRead_readable {addr : Word} (h4 : (addr - s.cfg.base).toNat % 4 = 0) (hlo : 4 ≤ (addr - s.cfg.base).toNat)
    (hhi : (addr - s.cfg.base).toNat ≤ 0x50) : (s.memRead addr 4).isSome = true := by
  obtain ⟨r, hr, hcmd⟩ := regAt_readable h4 hlo hhi
  rw [State.memRead, State.target, if_pos ⟨rfl, h4⟩, hr]
  exact regValue_isSome s r hcmd

@[simp] theorem State.memRead_takeMove (addr : Word) (n : Nat) : s.takeMove.memRead addr n = s.memRead addr n := by
  unfold State.takeMove; split <;> rfl

@[simp] theorem State.target_takeMove (addr : Word) (n : Nat) : s.takeMove.target addr n = s.target addr n := by
  unfold State.takeMove; split <;> rfl

/-- Only an aligned four-byte access at the base reaches `CMD` (10_state.md R44). -/
theorem eq_base_of_target_cmd {addr : Word} {n : Nat} (h : s.target addr n = some .cmd) :
    n = 4 ∧ (addr - s.cfg.base).toNat = 0 := by
  unfold State.target at h
  dsimp only at h
  split at h
  · rename_i haligned
    obtain ⟨hn, -⟩ := haligned
    refine ⟨hn, ?_⟩
    unfold regAt at h
    split at h
    case h_1 hoff => exact hoff
    all_goals cases h
  · cases h

theorem hostWriteStep_refused {addr : Word} {n : Nat} {v : Word} (h : s.target addr n ≠ some .cmd) :
    hostWriteStep addr n v s = s.raiseFault .busError := by
  unfold hostWriteStep
  split
  · exact absurd ‹_› h
  · rfl

end

/-- Settles O48. -/
theorem busAccesses : Obligations.BusAccesses := by
  refine ⟨fun s addr n hm => ⟨fun hbad => ?refused, ?value⟩, fun s addr n v hm hbad => ?write⟩
  case refused =>
    have hnone := memRead_refused s hbad
    refine ⟨hnone, ?_⟩
    rw [step_eq, hm, moveStep, hostReadStep, State.memRead_takeMove, hnone]
  case value =>
    rintro rfl h4 hlo hhi
    have hsome := memRead_readable s h4 hlo hhi
    refine ⟨hsome, ?_⟩
    obtain ⟨v, hv⟩ := Option.isSome_iff_exists.mp hsome
    rw [step_eq, hm, moveStep, hostReadStep, State.memRead_takeMove, hv]
  case write =>
    rw [step_eq, hm, moveStep, hostWriteStep_refused]
    rw [State.target_takeMove]
    intro hcmd
    obtain ⟨hn, hoff⟩ := eq_base_of_target_cmd s hcmd
    exact hbad.elim (· hn) (· hoff)

/-! ## The packed registers -/

/-- The index of a pool timer as a number. -/
def PoolIx.number : PoolIx → Nat
  | .t0 => 0
  | .t1 => 1
  | .t2 => 2

/-- The index of a channel as a number. -/
def ChIx.number : ChIx → Nat
  | .ch0 => 0
  | .ch1 => 1
  | .ch2 => 2
  | .ch3 => 3

theorem memRead_reg (s : State) {off : Word} {r : Reg} (h4 : off.toNat % 4 = 0) (hr : regAt off.toNat = some r) :
    s.memRead (s.cfg.base + off) 4 = s.regValue r := by
  rw [memRead_offset s off h4, hr]; rfl

section

variable {v w : Nat} {x : BitVec v} {y : BitVec w} {k : Nat}

/-- A bit of a packed word stands in its upper part or in its lower one. -/
theorem getLsbD_append_upper (h : w ≤ k) : (x ++ y).getLsbD k = x.getLsbD (k - w) := by
  rw [BitVec.getLsbD_append, if_neg (Nat.not_lt.mpr h)]

theorem getLsbD_append_lower (h : k < w) : (x ++ y).getLsbD k = y.getLsbD k := by
  rw [BitVec.getLsbD_append, if_pos h]

end

section

variable (s : State)

@[simp] theorem getElem_bit (b : Bool) : (bit b)[0] = b := by simp [bit]

/-- `STATUS` as the number of its five bits (10_state.md R45). -/
theorem statusReg_toNat :
    s.statusReg.toNat =
      s.fgFrame.isSome.toNat + 2 * s.fgWaiting.toNat + 4 * s.fault.toNat + 8 * s.isrActive.toNat
        + 16 * s.evLatch.toNat := by
  have bits : ∀ a b c d e : Bool, (0#27 ++ bit e ++ bit d ++ bit c ++ bit b ++ bit a : Word).toNat
      = a.toNat + 2 * b.toNat + 4 * c.toNat + 8 * d.toNat + 16 * e.toNat := by decide
  exact bits _ _ _ _ _

/-- The fields of `TFLAGS` of timer `i` (10_state.md R52). -/
theorem tflagsReg_timer (i : PoolIx) :
    s.tflagsReg.getLsbD i.number = (s.shownTimer i).inUse
      ∧ s.tflagsReg.getLsbD (4 + i.number) = (s.shownTimer i).expired
      ∧ s.tflagsReg.extractLsb' (8 + 2 * i.number) 2 = (s.shownTimer i).cbId := by
  cases i <;>
    simp (disch := omega) only [PoolIx.number, State.tflagsReg, getLsbD_append_upper, getLsbD_append_lower,
      BitVec.extractLsb'_append_eq_of_le, BitVec.extractLsb'_append_eq_of_add_le] <;>
    simp

theorem tflagsReg_task :
    s.tflagsReg.getLsbD 3 = s.taskInUse ∧ s.tflagsReg.getLsbD 7 = s.taskExpired
      ∧ s.tflagsReg.extractLsb' 14 2 = s.taskId ∧ s.tflagsReg.extractLsb' 16 16 = 0 := by
  simp (disch := omega) only [State.tflagsReg, getLsbD_append_upper, getLsbD_append_lower,
    BitVec.extractLsb'_append_eq_of_le, BitVec.extractLsb'_append_eq_of_add_le]
  simp

theorem eventsReg_chan (ch : ChIx) :
    s.eventsReg.getLsbD (4 + ch.number) = (s.chan ch).evt
      ∧ s.eventsReg.getLsbD (8 + ch.number) = (s.chan ch).uncertain := by
  cases ch <;> simp (disch := omega) only [ChIx.number, State.eventsReg, getLsbD_append_upper, getLsbD_append_lower] <;>
    simp [State.chan, Channels.get]

theorem eventsReg_others :
    s.eventsReg.getLsbD 0 = s.evtOvf ∧ s.eventsReg.getLsbD 1 = s.evtOvfClrPend ∧ s.eventsReg.extractLsb' 2 2 = 0
      ∧ s.eventsReg.getLsbD 12 = s.evtLfStarted ∧ s.eventsReg.getLsbD 13 = s.evtHfStarted
      ∧ s.eventsReg.extractLsb' 14 18 = 0 := by
  simp (disch := omega) only [State.eventsReg, getLsbD_append_upper, getLsbD_append_lower,
    BitVec.extractLsb'_append_eq_of_le, BitVec.extractLsb'_append_eq_of_add_le]
  simp

theorem intenReg_chan (ch : ChIx) :
    s.intenReg.getLsbD (4 + ch.number) = (s.chan ch).inten := by
  cases ch <;> simp (disch := omega) only [ChIx.number, State.intenReg, getLsbD_append_upper, getLsbD_append_lower] <;>
    simp [State.chan, Channels.get]

theorem intenReg_others :
    s.intenReg.getLsbD 0 = s.intenOvf ∧ s.intenReg.extractLsb' 1 3 = 0 ∧ s.intenReg.getLsbD 8 = s.intenLf
      ∧ s.intenReg.getLsbD 9 = s.intenHf ∧ s.intenReg.extractLsb' 10 22 = 0 := by
  simp (disch := omega) only [State.intenReg, getLsbD_append_upper, getLsbD_append_lower,
    BitVec.extractLsb'_append_eq_of_le, BitVec.extractLsb'_append_eq_of_add_le]
  simp

theorem clkStatReg_fields :
    s.clkStatReg.extractLsb' 0 2 = s.lfclk.code ∧ s.clkStatReg.extractLsb' 2 2 = s.hfclk.code
      ∧ s.clkStatReg.getLsbD 4 = s.counterRunning ∧ s.clkStatReg.getLsbD 5 = s.poolInit
      ∧ s.clkStatReg.extractLsb' 6 26 = 0 := by
  simp (disch := omega) only [State.clkStatReg, getLsbD_append_upper, getLsbD_append_lower,
    BitVec.extractLsb'_append_eq_of_le, BitVec.extractLsb'_append_eq_of_add_le]
  simp

theorem irqStatReg_fields :
    s.irqStatReg.getLsbD 0 = s.pendTimerSw ∧ s.irqStatReg.getLsbD 1 = s.timerLevel
      ∧ s.irqStatReg.getLsbD 2 = s.pendRadio ∧ s.irqStatReg.getLsbD 3 = s.pendPower
      ∧ s.irqStatReg.getLsbD 4 = s.clockLevel ∧ s.irqStatReg.extractLsb' 5 3 = 0
      ∧ s.irqStatReg.extractLsb' 8 2 = s.servedLine ∧ s.irqStatReg.extractLsb' 10 22 = 0 := by
  simp (disch := omega) only [State.irqStatReg, getLsbD_append_upper, getLsbD_append_lower,
    BitVec.extractLsb'_append_eq_of_le, BitVec.extractLsb'_append_eq_of_add_le]
  simp

theorem configReg_fields (p : Params) :
    (configReg p).extractLsb' 0 2 = poolSizeCode p.nTimers ∧ (configReg p).getLsbD 2 = (p.build == .debug)
      ∧ (configReg p).getLsbD 3 = (p.waitLatch == .latched) ∧ (configReg p).getLsbD 4 = p.spuriousWake
      ∧ (configReg p).extractLsb' 5 3 = 0 ∧ (configReg p).extractLsb' 8 8 = p.minTimeout
      ∧ (configReg p).extractLsb' 16 8 = p.cmpGuard ∧ (configReg p).extractLsb' 24 8 = 0 := by
  simp (disch := omega) only [configReg, getLsbD_append_upper, getLsbD_append_lower,
    BitVec.extractLsb'_append_eq_of_le, BitVec.extractLsb'_append_eq_of_add_le]
  simp

theorem shownTimer_of_mem {i : PoolIx} (h : i ∈ poolIndices s.cfg.nTimers) : s.shownTimer i = s.timer i := if_pos h

theorem shownTimer_two (h : s.cfg.nTimers = .two) : s.shownTimer .t2 = .reset := by
  simp [State.shownTimer, h, poolIndices]

theorem servedLine_idle (h : s.isrActive = false) : s.servedLine = 0 := by
  simp [State.servedLine, h]

theorem servedLine_active {f : IsrFrame} (ha : s.isrActive = true) (hf : s.isrFrame = some f) :
    s.servedLine = lineNumber f.line := by
  simp [State.servedLine, ha, hf]

/-- Right after reset no timer is shown, in every configuration. -/
theorem shownTimer_reset (p : Params) (i : PoolIx) : (State.resetWith p).shownTimer i = .reset := by
  have h : (State.resetWith p).timer i = .reset := by cases i <;> rfl
  rw [State.shownTimer, h, ite_self]

theorem tflagsReg_reset (p : Params) : (State.resetWith p).tflagsReg = 0 := by
  have zero : (0#16 ++ 0#2 ++ 0#2 ++ 0#2 ++ 0#2 ++ bit false ++ bit false ++ bit false ++ bit false ++ bit false
      ++ bit false ++ bit false ++ bit false : Word) = 0 := by decide
  simp only [State.tflagsReg, shownTimer_reset]
  exact zero

end

/-- Right after reset every readable register but `SANE` and `CONFIG` reads 0 (70_reset_and_hazards.md R300). -/
theorem regValue_reset (p : Params) {r : Reg} (hcmd : r ≠ .cmd) (hsane : r ≠ .sane) (hconfig : r ≠ .config) :
    (State.resetWith p).regValue r = some 0 := by
  cases r
  case cmd => exact absurd rfl hcmd
  case sane => exact absurd rfl hsane
  case config => exact absurd rfl hconfig
  case tflags => exact congrArg some (tflagsReg_reset p)
  case status => simp [State.regValue, State.statusReg, State.resetWith, State.busy, bit]
  case events => simp [State.regValue, State.eventsReg, State.resetWith, Channel.reset, bit]
  case inten => simp [State.regValue, State.intenReg, State.resetWith, Channel.reset, bit]
  case clkStat => simp [State.regValue, State.clkStatReg, State.resetWith, OscState.code, bit]
  case irqStat =>
    simp [State.regValue, State.irqStatReg, State.resetWith, State.servedLine, State.clockLevel, State.timerLevel,
      Channel.reset, Channel.requests, bit]
  case resHi => simp [State.regValue, State.resetWith]
  case lastNowHi => simp [State.regValue, State.resetWith]
  all_goals rfl

/-- What a register reads right after reset. -/
theorem memRead_reset (p : Params) {off : Word} {r : Reg} (h4 : off.toNat % 4 = 0) (hr : regAt off.toNat = some r)
    (hcmd : r ≠ .cmd) (hsane : r ≠ .sane) (hconfig : r ≠ .config) :
    (State.resetWith p).memRead (p.base + off) 4 = some 0 :=
  (memRead_reg (State.resetWith p) h4 hr).trans (regValue_reset p hcmd hsane hconfig)

/-- Settles O50. -/
theorem packedRegisters : Obligations.PackedRegisters := by
  refine ⟨fun p off hoff => ?reset, fun s => ⟨⟨_, memRead_reg s (r := .status) rfl rfl, statusReg_toNat s⟩,
    ⟨_, memRead_reg s (r := .tflags) rfl rfl, ?tflags⟩, ⟨_, memRead_reg s (r := .events) rfl rfl, ?events⟩,
    ⟨_, memRead_reg s (r := .inten) rfl rfl, ?inten⟩, ⟨_, memRead_reg s (r := .clkStat) rfl rfl, ?clkStat⟩,
    ⟨_, memRead_reg s (r := .irqStat) rfl rfl, ?irqStat⟩, ⟨_, memRead_reg s (r := .config) rfl rfl, ?config⟩⟩⟩
  case reset =>
    simp only [List.mem_cons, List.not_mem_nil, or_false] at hoff
    obtain rfl | rfl | rfl | rfl | rfl | rfl := hoff <;> exact memRead_reset p rfl rfl nofun nofun nofun
  case tflags =>
    refine ⟨fun i hi k hk => ?_, fun htwo => ?_, tflagsReg_task s⟩
    · obtain rfl : k = i.number := by rw [hk]; cases i <;> rfl
      rw [← shownTimer_of_mem s hi]
      exact tflagsReg_timer s i
    · have h := tflagsReg_timer s .t2
      rwa [shownTimer_two s htwo] at h
  case events =>
    obtain ⟨hovf, hclr, hz, hlf, hhf, hz'⟩ := eventsReg_others s
    refine ⟨hovf, hclr, hz, fun ch k hk => ?_, hlf, hhf, hz'⟩
    obtain rfl : k = ch.number := by rw [hk]; cases ch <;> rfl
    exact eventsReg_chan s ch
  case inten =>
    obtain ⟨hovf, hz, hlf, hhf, hz'⟩ := intenReg_others s
    refine ⟨hovf, hz, fun ch k hk => ?_, hlf, hhf, hz'⟩
    obtain rfl : k = ch.number := by rw [hk]; cases ch <;> rfl
    exact intenReg_chan s ch
  case clkStat =>
    obtain ⟨hlf, hhf, hrest⟩ := clkStatReg_fields s
    refine ⟨hlf.trans ?_, hhf.trans ?_, hrest⟩
    · cases s.lfclk <;> rfl
    · cases s.hfclk <;> rfl
  case irqStat =>
    obtain ⟨hsw, htimer, hradio, hpower, hclock, hz, hline, hz'⟩ := irqStatReg_fields s
    refine ⟨hsw, htimer, hradio, hpower, hclock, hz, fun ha => hline.trans (servedLine_idle s ha),
      fun f ha hf => hline.trans ((servedLine_active s ha hf).trans ?_), hz'⟩
    cases f.line <;> rfl
  case config =>
    obtain ⟨hn, hrest⟩ := configReg_fields s.cfg
    refine ⟨hn.trans ?_, hrest⟩
    cases s.cfg.nTimers <;> rfl

/-! ## The registers that show one element -/

/-- The two halves of a wide register give the whole (10_state.md R46, R58). -/
theorem toNat_halves {n : Nat} (x : BitVec (32 + n)) :
    x.toNat = (x.extractLsb' 32 n).toNat * 2 ^ 32 + (x.extractLsb' 0 32).toNat := by
  have hx : x.toNat < 2 ^ 32 * 2 ^ n := by rw [← Nat.pow_add]; exact x.isLt
  have hhi : x.toNat / 2 ^ 32 < 2 ^ n := Nat.div_lt_of_lt_mul hx
  rw [BitVec.extractLsb'_toNat, BitVec.extractLsb'_toNat, Nat.shiftRight_eq_div_pow, Nat.mod_eq_of_lt hhi,
    Nat.shiftRight_zero, Nat.div_add_mod']

theorem toNat_setWidth_ticks (x : Ticks) : (x.setWidth 32).toNat = x.toNat := BitVec.toNat_setWidth_of_le (by decide)

/-- Settles O51. -/
theorem plainRegisters : Obligations.PlainRegisters := by
  refine ⟨fun p off hoff => ?reset, fun p => memRead_reg (State.resetWith p) (r := .sane) rfl rfl, fun s => ?values⟩
  case reset =>
    simp only [List.mem_cons, List.not_mem_nil, or_false] at hoff
    obtain rfl | rfl | rfl | rfl | rfl | rfl | rfl | rfl | rfl | rfl | rfl | rfl := hoff <;>
      exact memRead_reset p rfl rfl nofun nofun nofun
  case values =>
    refine ⟨⟨_, _, memRead_reg s (r := .resLo) rfl rfl, memRead_reg s (r := .resHi) rfl rfl,
        toNat_halves (n := 32) s.res⟩,
      ⟨_, _, memRead_reg s (r := .lastNowLo) rfl rfl, memRead_reg s (r := .lastNowHi) rfl rfl, ?lastNow⟩,
      memRead_reg s (r := .ovf) rfl rfl,
      ⟨_, memRead_reg s (r := .counter) rfl rfl, toNat_setWidth_ticks _⟩,
      ⟨_, memRead_reg s (r := .sane) rfl rfl, toNat_setWidth_ticks _⟩,
      ⟨_, memRead_reg s (r := .cc0) rfl rfl, toNat_setWidth_ticks _⟩,
      ⟨_, memRead_reg s (r := .cc1) rfl rfl, toNat_setWidth_ticks _⟩,
      ⟨_, memRead_reg s (r := .cc2) rfl rfl, toNat_setWidth_ticks _⟩,
      ⟨_, memRead_reg s (r := .cc3) rfl rfl, toNat_setWidth_ticks _⟩,
      (memRead_reg s (r := .wake) rfl rfl).trans ?wake, (memRead_reg s (r := .faultCode) rfl rfl).trans ?faultCode⟩
    case lastNow => rw [toNat_setWidth_ticks]; exact toNat_halves (n := 24) s.lastNow
    case wake => rw [State.regValue]; cases s.wake <;> rfl
    case faultCode => rw [State.regValue]; cases s.faultCode <;> rfl

end Sys2Proof.Machine
end

section
/-! SUPPORT. The write to `CMD`: where the word goes while the foreground is idle, busy or faulted. -/

namespace Sys2Proof.Machine

section

variable (s : State) (w : Word)

/-- The window's base is the offset of `CMD` (10_state.md R44). -/
theorem target_base : s.target s.cfg.base 4 = some .cmd := by
  rw [State.target, BitVec.sub_self]; rfl

theorem hostWriteStep_base : hostWriteStep s.cfg.base 4 w s = s.issue w := by
  rw [hostWriteStep, target_base]

theorem issue_of_idle_or_faulted (h : s.busy = false ∨ s.fault = true) :
    s.issue w = { s with issued := s.issued ++ [w] } := by
  rw [State.issue, if_neg]
  obtain hbusy | hfault := h
  · simp [hbusy]
  · simp [hfault]

variable (hbusy : s.busy = true) (hfault : s.fault = false)
include hbusy hfault

theorem issue_of_busy : s.cmdHeld = none → s.issue w = { s with cmdHeld := some w } := by
  intro hheld
  rw [State.issue, if_pos (by simp [hbusy, hfault]), hheld]

/-- While a write is held the host is stalled, and a second one is not taken (20_memory.md R66; log 6). -/
theorem issue_of_stalled {v : Word} : s.cmdHeld = some v → s.issue w = s := by
  intro hheld
  rw [State.issue, if_pos (by simp [hbusy, hfault]), hheld]

end

theorem step_of_cmdWrite {s : State} {v : Word} (hm : s.nextMove = .hostWrite s.cfg.base 4 v) :
    step s = .next (s.takeMove.issue v) := by
  rw [step_eq, hm, moveStep, ← s.takeMove_cfg, hostWriteStep_base]

/-- Settles O49: a write to the base is an `issue`, and its three ways exclude each other. -/
theorem cmdWriteIssuesACommand : Obligations.CmdWriteIssuesACommand := by
  intro s v hm
  have hbusy {c} (hc : s.fgFrame = some c) : s.takeMove.busy = true := by simp [State.busy, hc]
  rw [step_of_cmdWrite hm]
  refine ⟨fun h => ?joins, fun c hc hf hheld => ?held, fun c w hc hf hheld => ?stalled⟩
  case joins =>
    have hissue : s.takeMove.issue v = { s.takeMove with issued := s.issued ++ [v] } := by
      rw [issue_of_idle_or_faulted, State.takeMove_issued]
      exact h.imp (fun hidle => by simp [State.busy, hidle]) (s.takeMove_fault.trans ·)
    refine ⟨_, rfl, hissue, ?_⟩
    simp [hissue, State.fgWords]
  case held => rw [issue_of_busy _ v (hbusy hc) (s.takeMove_fault.trans hf) (s.takeMove_cmdHeld.trans hheld)]
  case stalled => rw [issue_of_stalled _ v (hbusy hc) (s.takeMove_fault.trans hf) (s.takeMove_cmdHeld.trans hheld)]

end Sys2Proof.Machine
end

section
/-! SUPPORT. The decoder and the encoder are inverse to one another: at every word the decoder answers the command whose word
it is, or refuses an illegal word (`answers_decode`). From it the rows of the opcode map, the illegal words and the index check. -/

namespace Sys2Proof

open Machine (breaksReserved)

/-! ## Fields -/

theorem append_eq_zero {a b : Nat} {x : BitVec a} {y : BitVec b} : x ++ y = 0 ↔ x = 0 ∧ y = 0 := by
  have hshift : x.toNat <<< b = 0 ↔ x.toNat = 0 := by simp [Nat.shiftLeft_eq]
  simp only [← BitVec.toNat_inj, BitVec.toNat_append, BitVec.ofNat_eq_ofNat, BitVec.toNat_ofNat, Nat.zero_mod,
    Nat.or_eq_zero_iff, hshift]

section

variable (o : BitVec 4) (i c : BitVec 2) (m : Ticks)

@[simp] theorem fieldReason_packT : fieldReason (packT o i c m) = m.extractLsb' 0 3 := by
  apply BitVec.eq_of_toNat_eq
  rw [fieldReason_toNat, fieldImm_packT, extractLsb'_val]
  omega

@[simp] theorem fieldSub_packT : fieldSub (packT o i c m) = i ++ c := by
  apply BitVec.eq_of_toNat_eq
  rw [fieldSub_toNat, fieldIdx_packT, fieldCb_packT, BitVec.toNat_append, ← Nat.shiftLeft_add_eq_or_of_lt c.isLt,
    Nat.shiftLeft_eq]

/-- A system word of format `S` is a word of format `T` with `OP = 0` and `SUB` in its `IDX` and `CB` bits (R80). -/
theorem packS_append : packS (i ++ c) = packT 0 i c 0 := by revert i c; decide

end

section

variable {m : Ticks}

theorem high_toNat : (m.extractLsb' 3 21).toNat = m.toNat / 8 := by
  rw [extractLsb'_val]; omega

theorem high_eq_zero_iff : m.extractLsb' 3 21 = 0 ↔ m.toNat / 8 = 0 := by
  rw [← BitVec.toNat_inj, high_toNat]; rfl

/-- Where the must-be-zero bits of SLP.UNTIL are 0, `IMM` is its reason operand (R83, R85). -/
theorem setWidth_extractLsb'_of_high (h : m.extractLsb' 3 21 = 0) : (m.extractLsb' 0 3).setWidth 24 = m := by
  have h8 := high_eq_zero_iff.mp h
  apply BitVec.eq_of_toNat_eq
  rw [BitVec.toNat_setWidth, extractLsb'_val]
  omega

end

/-! ## What the decoder answers -/

/-- The illegal words of R86. -/
def IllegalWord (w : Word) : Prop :=
  w = 0 ∨ (fieldOp w = 0 ∧ 7 ≤ (fieldSub w).toNat) ∨ breaksReserved w = true

/-- The decoder's answer at `w` fits: a command whose word is `w`, or a refusal of an illegal word. -/
def Answers (w : Word) : Except Illegal Instr → Prop
  | .ok i => encode i = w
  | .error _ => IllegalWord w

/-- A row fits where its command has the word `w` once the must-be-zero bits are 0, and R85 forbids any other value. -/
theorem answers_ifZero {w : Word} {n : Nat} {r : BitVec n} {i : Instr} (hzero : r = 0 → encode i = w)
    (hreserved : r ≠ 0 → breaksReserved w = true) : Answers w (ifZero r i) := by
  unfold ifZero
  split
  · exact hzero ‹_›
  · exact .inr (.inr (hreserved ‹_›))

section

variable {o : BitVec 4} {i c : BitVec 2} {m : Ticks} {j : Instr}

/-- A row without operands. -/
theorem answers_noOperand (hj : encode j = packT o 0 0 0)
    (hr : ∀ i c m, breaksReserved (packT o i c m) = (i != 0 || c != 0 || m != 0)) :
    Answers (packT o i c m) (ifZero (i ++ c ++ m) j) := by
  refine answers_ifZero ?_ ?_ <;> simp only [append_eq_zero, ne_eq, hr]
  · rintro ⟨⟨rfl, rfl⟩, rfl⟩; exact hj
  · simp [imp_iff_not_or]

/-- A row whose operand is `IDX`. -/
theorem answers_index (hj : encode j = packT o i 0 0)
    (hr : ∀ c m, breaksReserved (packT o i c m) = (c != 0 || m != 0)) :
    Answers (packT o i c m) (ifZero (c ++ m) j) := by
  refine answers_ifZero ?_ ?_ <;> simp only [append_eq_zero, ne_eq, hr]
  · rintro ⟨rfl, rfl⟩; exact hj
  · simp [imp_iff_not_or]

/-- A row whose operand is `IMM`. -/
theorem answers_ticks (hj : encode j = packT o 0 0 m)
    (hr : ∀ i c, breaksReserved (packT o i c m) = (i != 0 || c != 0)) :
    Answers (packT o i c m) (ifZero (i ++ c) j) := by
  refine answers_ifZero ?_ ?_ <;> simp only [append_eq_zero, ne_eq, hr]
  · rintro ⟨rfl, rfl⟩; exact hj
  · simp [imp_iff_not_or]

/-- TASK.SCHED, whose operands are `CB` and `IMM`. -/
theorem answers_task : Answers (packT 10 i c m) (ifZero i (.taskSched c m)) :=
  answers_ifZero (by rintro rfl; rfl) fun h => by simpa [breaksReserved] using h

/-- SLP.UNTIL, whose operand is the low part of `IMM`. -/
theorem answers_until :
    Answers (packT 13 i c m)
      (ifZero (i ++ c ++ m.extractLsb' 3 21) (.slpUntil (WakeReason.ofCode (m.extractLsb' 0 3)))) := by
  refine answers_ifZero ?_ ?_ <;> simp only [append_eq_zero, ne_eq]
  · rintro ⟨⟨rfl, rfl⟩, h⟩
    rw [encode, WakeReason.code_ofCode, setWidth_extractLsb'_of_high h]
  · simp only [high_eq_zero_iff]
    simp [breaksReserved, imp_iff_not_or]

theorem seven_le_toNat {sub : BitVec 4} (h0 : sub ≠ 0) (h1 : sub ≠ 1) (h2 : sub ≠ 2) (h3 : sub ≠ 3) (h4 : sub ≠ 4)
    (h5 : sub ≠ 5) (h6 : sub ≠ 6) : 7 ≤ sub.toNat := by
  have h : ∀ sub : BitVec 4, sub ∉ [0, 1, 2, 3, 4, 5, 6] → 7 ≤ sub.toNat := by decide
  exact h sub (by simp_all)

/-- The system group: the function `SUB` is one of six, or the word is illegal (R84, R86). -/
theorem answers_system : Answers (packT 0 i c m) (decodeSystem (packT 0 i c m)) := by
  have hreserved : m ≠ 0 → breaksReserved (packT 0 i c m) = true := by simp [breaksReserved]
  have row {j : Instr} (hj : encode j = packS (i ++ c)) : Answers (packT 0 i c m) (ifZero m j) :=
    answers_ifZero (by rintro rfl; rw [hj, packS_append]) hreserved
  simp only [decodeSystem, fieldSub_packT, fieldImm_packT]
  split_ifs with h0 h1 h2 h3 h4 h5 h6
  · exact .inl h0
  · exact row (by rw [h1]; rfl)
  · exact row (by rw [h2]; rfl)
  · exact row (by rw [h3]; rfl)
  · exact row (by rw [h4]; rfl)
  · exact row (by rw [h5]; rfl)
  · exact row (by rw [h6]; rfl)
  · by_cases hm : m = 0
    · have hsub : (i ++ c : BitVec 4) ≠ 0 := fun h => h0 (by rw [hm, ← packS_append, h]; rfl)
      have h7 := seven_le_toNat hsub h1 h2 h3 h4 h5 h6
      exact .inr (.inl ⟨fieldOp_packT 0 i c m, by rwa [fieldSub_packT]⟩)
    · exact .inr (.inr (hreserved hm))

theorem op_cases (o : BitVec 4) :
    o = 0 ∨ o = 1 ∨ o = 2 ∨ o = 3 ∨ o = 4 ∨ o = 5 ∨ o = 6 ∨ o = 7 ∨ o = 8 ∨ o = 9 ∨ o = 10 ∨ o = 11 ∨ o = 12 ∨ o = 13
      ∨ o = 14 ∨ o = 15 := by
  revert o; decide

/-- The decoder's answer fits, whatever the fields of the word. -/
theorem answers_decode_packT : Answers (packT o i c m) (decode (packT o i c m)) := by
  simp only [decode, fieldOp_packT, fieldIdx_packT, fieldCb_packT, fieldImm_packT, fieldReason_packT]
  obtain rfl | rfl | rfl | rfl | rfl | rfl | rfl | rfl | rfl | rfl | rfl | rfl | rfl | rfl | rfl | rfl := op_cases o
  · exact answers_system
  · exact answers_noOperand rfl fun _ _ _ => by simp [breaksReserved]
  · exact answers_noOperand rfl fun _ _ _ => by simp [breaksReserved]
  · exact answers_noOperand rfl fun _ _ _ => by simp [breaksReserved]
  · exact answers_noOperand rfl fun _ _ _ => by simp [breaksReserved]
  · exact answers_noOperand rfl fun _ _ _ => by simp [breaksReserved]
  · exact rfl
  · exact answers_index rfl fun _ _ => by simp [breaksReserved]
  · exact answers_index rfl fun _ _ => by simp [breaksReserved]
  · exact answers_index rfl fun _ _ => by simp [breaksReserved]
  · exact answers_task
  · exact answers_ticks rfl fun _ _ => by simp [breaksReserved]
  · exact answers_ticks rfl fun _ _ => by simp [breaksReserved]
  · exact answers_until
  · exact answers_noOperand rfl fun _ _ _ => by simp [breaksReserved]
  · exact answers_ticks rfl fun _ _ => by simp [breaksReserved]

/-- The decoder's answer fits at every word (R81). -/
theorem answers_decode (w : Word) : Answers w (decode w) := by
  have h := answers_decode_packT (o := fieldOp w) (i := fieldIdx w) (c := fieldCb w) (m := fieldImm w)
  rwa [packT_fields] at h

end

/-! ## Decode and encode -/

/-- The fields of a packed word are those it was packed from, so the decoder selects the command's own row, whose must-be-zero
fields were packed as 0, and reads its operands. -/
theorem decode_encode (i : Instr) : decode (encode i) = .ok i := by
  cases i with
  | tmrStart idx cb timeout => simp [encode, decode]
  | tmrCancel idx => simp [encode, decode, ifZero]
  | tmrIsStarted idx => simp [encode, decode, ifZero]
  | tmrIsExpired idx => simp [encode, decode, ifZero]
  | taskSched id duration => simp [encode, decode, ifZero]
  | slpTimeout t => simp [encode, decode, ifZero]
  | slpDuration d => simp [encode, decode, ifZero]
  | slpUntil reason => cases reason <;> rfl
  | slpSetSane m => simp [encode, decode, ifZero]
  | _ => rfl

theorem decode_of_encode {i : Instr} {w : Word} (h : encode i = w) : decode w = .ok i := h ▸ decode_encode i

theorem encode_of_decode {w : Word} {i : Instr} (h : decode w = .ok i) : encode i = w := by
  have hw := answers_decode w
  rwa [h] at hw

/-- The words that decode are the words of commands. -/
theorem decode_eq_ok_iff {w : Word} {i : Instr} : decode w = .ok i ↔ encode i = w :=
  ⟨encode_of_decode, decode_of_encode⟩

/-- Settles O2. -/
theorem decodeOfEncode : Obligations.DecodeOfEncode := decode_encode

/-- Settles O3. -/
theorem encodeOfDecode : Obligations.EncodeOfDecode := fun _ _ => encode_of_decode

/-- Settles O1. -/
theorem decodesSampleWords : Obligations.DecodesSampleWords :=
  ⟨decode_of_encode (by decide), decode_of_encode (by decide), decode_of_encode (by decide), decode_of_encode (by decide),
    decode_of_encode (by decide), decode_of_encode (by decide), decode_of_encode (by decide),
    decode_of_encode (by decide), decode_of_encode (by decide), decode_of_encode (by decide), rfl⟩

/-! ## The opcode map -/

theorem packT_inj {o o' : BitVec 4} {i i' c c' : BitVec 2} {m m' : Ticks} (h : packT o i c m = packT o' i' c' m') :
    o = o' ∧ i = i' ∧ c = c' ∧ m = m' := by
  refine ⟨?_, ?_, ?_, ?_⟩
  · simpa using congrArg fieldOp h
  · simpa using congrArg fieldIdx h
  · simpa using congrArg fieldCb h
  · simpa using congrArg fieldImm h

/-- A packed word that selects a row has the row's fields where the mask keeps them. -/
theorem fields_of_selects {r : Row} {o o' p : BitVec 4} {i i' j c c' d : BitVec 2} {m m' n : Ticks}
    (h : r.selects (packT o i c m) = true) (hm : r.mask = packT o' i' c' m') (hp : r.pattern = packT p j d n) :
    o &&& o' = p ∧ i &&& i' = j ∧ c &&& c' = d ∧ m &&& m' = n := by
  rw [Row.selects, beq_iff_eq, hm, hp, Laws.EncodesItsRow.packT_and] at h
  exact packT_inj h

/-- A command without operands: its row keeps every bit (R85). -/
theorem exists_encode_of_noOperand {r : Row} {w : Word} {k : Instr} (h : r.selects w = true)
    (hm : r.mask = .allOnes 32) (hk : encode k = r.pattern) : ∃ k, encode k = w := by
  rw [Row.selects, beq_iff_eq, hm, BitVec.and_allOnes] at h
  exact ⟨k, hk.trans h.symm⟩

/-- A command whose operand is `IDX`: its row leaves those two bits open. -/
theorem exists_encode_of_index {r : Row} {o p : BitVec 4} {i c : BitVec 2} {m : Ticks} {k : BitVec 2 → Instr}
    (h : r.selects (packT o i c m) = true) (hm : r.mask = packT (.allOnes 4) 0 (.allOnes 2) (.allOnes 24))
    (hp : r.pattern = packT p 0 0 0) (hk : encode (k i) = packT p i 0 0) : ∃ k, encode k = packT o i c m := by
  obtain ⟨ho, -, hc, hm⟩ := fields_of_selects h hm hp
  rw [BitVec.and_allOnes] at ho hc hm
  subst ho hc hm
  exact ⟨k i, hk⟩

/-- A command whose operand is `IMM`: its row leaves those 24 bits open. -/
theorem exists_encode_of_ticks {r : Row} {o p : BitVec 4} {i c : BitVec 2} {m : Ticks} {k : Ticks → Instr}
    (h : r.selects (packT o i c m) = true) (hm : r.mask = packT (.allOnes 4) (.allOnes 2) (.allOnes 2) 0)
    (hp : r.pattern = packT p 0 0 0) (hk : encode (k m) = packT p 0 0 m) : ∃ k, encode k = packT o i c m := by
  obtain ⟨ho, hi, hc, -⟩ := fields_of_selects h hm hp
  rw [BitVec.and_allOnes] at ho hi hc
  subst ho hi hc
  exact ⟨k m, hk⟩

/-- TMR.START: its row leaves every bit but those of `OP` open. -/
theorem exists_encode_of_tmrStart {r : Row} {o : BitVec 4} {i c : BitVec 2} {m : Ticks}
    (h : r.selects (packT o i c m) = true) (hm : r.mask = packT (.allOnes 4) 0 0 0)
    (hp : r.pattern = packT 6 0 0 0) : ∃ k, encode k = packT o i c m := by
  obtain ⟨ho, -⟩ := fields_of_selects h hm hp
  rw [BitVec.and_allOnes] at ho
  exact ⟨.tmrStart i c m, by rw [encode, ho]⟩

/-- TASK.SCHED: its row leaves `CB` and `IMM` open. -/
theorem exists_encode_of_taskSched {r : Row} {o : BitVec 4} {i c : BitVec 2} {m : Ticks}
    (h : r.selects (packT o i c m) = true) (hm : r.mask = packT (.allOnes 4) (.allOnes 2) 0 0)
    (hp : r.pattern = packT 10 0 0 0) : ∃ k, encode k = packT o i c m := by
  obtain ⟨ho, hi, -⟩ := fields_of_selects h hm hp
  rw [BitVec.and_allOnes] at ho hi
  exact ⟨.taskSched c m, by rw [encode, ho, hi]⟩

/-- SLP.UNTIL: its row leaves the three bits of the reason open. -/
theorem exists_encode_of_slpUntil {r : Row} {o : BitVec 4} {i c : BitVec 2} {m : Ticks}
    (h : r.selects (packT o i c m) = true)
    (hm : r.mask = packT (.allOnes 4) (.allOnes 2) (.allOnes 2) (BitVec.allOnes 21 ++ 0#3))
    (hp : r.pattern = packT 13 0 0 0) : ∃ k, encode k = packT o i c m := by
  obtain ⟨ho, hi, hc, hm⟩ := fields_of_selects h hm hp
  rw [BitVec.and_allOnes] at ho hi hc
  have hhigh : m.extractLsb' 3 21 = 0 := by
    have h := congrArg (BitVec.extractLsb' 3 21) hm
    rw [BitVec.extractLsb'_and, BitVec.extractLsb'_append_eq_left, BitVec.and_allOnes] at h
    exact h.trans BitVec.extractLsb'_zero
  refine ⟨.slpUntil (.ofCode (m.extractLsb' 0 3)), ?_⟩
  rw [encode, WakeReason.code_ofCode, ho, hi, hc, setWidth_extractLsb'_of_high hhigh]

/-- Row by row: a word that selects the row is the word of the row's command with the operands in the bits left open. -/
theorem exists_encode_of_selects_packT {r : Row} (hr : r ∈ opcodeMap) {o : BitVec 4} {i c : BitVec 2} {m : Ticks}
    (h : r.selects (packT o i c m) = true) : ∃ k, encode k = packT o i c m := by
  simp only [opcodeMap, List.mem_cons, List.not_mem_nil, or_false] at hr
  rcases hr with rfl | rfl | rfl | rfl | rfl | rfl | rfl | rfl | rfl | rfl | rfl | rfl | rfl | rfl | rfl | rfl | rfl | rfl
    | rfl | rfl | rfl
  · exact exists_encode_of_noOperand (k := .wakeRead) h rfl rfl
  · exact exists_encode_of_noOperand (k := .postMsg) h rfl rfl
  · exact exists_encode_of_noOperand (k := .postBrownout) h rfl rfl
  · exact exists_encode_of_noOperand (k := .lfStart) h rfl rfl
  · exact exists_encode_of_noOperand (k := .hfStartDelay) h rfl rfl
  · exact exists_encode_of_noOperand (k := .hfStartIrq) h rfl rfl
  · exact exists_encode_of_noOperand (k := .clkStart) h rfl rfl
  · exact exists_encode_of_noOperand (k := .clkNow) h rfl rfl
  · exact exists_encode_of_noOperand (k := .clkReset0) h rfl rfl
  · exact exists_encode_of_noOperand (k := .clkIsRunning) h rfl rfl
  · exact exists_encode_of_noOperand (k := .clkWaitTick) h rfl rfl
  · exact exists_encode_of_tmrStart h rfl rfl
  · exact exists_encode_of_index (k := .tmrCancel) h rfl rfl rfl
  · exact exists_encode_of_index (k := .tmrIsStarted) h rfl rfl rfl
  · exact exists_encode_of_index (k := .tmrIsExpired) h rfl rfl rfl
  · exact exists_encode_of_taskSched h rfl rfl
  · exact exists_encode_of_ticks (k := .slpTimeout) h rfl rfl rfl
  · exact exists_encode_of_ticks (k := .slpDuration) h rfl rfl rfl
  · exact exists_encode_of_slpUntil h rfl rfl
  · exact exists_encode_of_noOperand (k := .slpIsTimer) h rfl rfl
  · exact exists_encode_of_ticks (k := .slpSetSane) h rfl rfl rfl

theorem exists_encode_of_selects {r : Row} {w : Word} (hr : r ∈ opcodeMap) (h : r.selects w = true) :
    ∃ i, encode i = w := by
  rw [← packT_fields w] at h ⊢
  exact exists_encode_of_selects_packT hr h

/-- A word that selected two rows would give their patterns the same bits under both masks; no two rows do. -/
theorem selected_row_unique {r q : Row} {w : Word} (hr : r ∈ opcodeMap) (hq : q ∈ opcodeMap) (h : r.selects w = true)
    (h' : q.selects w = true) : r = q := by
  have disjoint : ∀ r ∈ opcodeMap, ∀ q ∈ opcodeMap, r.pattern &&& q.mask = q.pattern &&& r.mask → r = q := by decide
  rw [Row.selects, beq_iff_eq] at h h'
  refine disjoint r hr q hq ?_
  rw [← h, ← h', BitVec.and_assoc, BitVec.and_assoc, BitVec.and_comm r.mask]

/-- The word of every command selects the row with the command's mnemonic (R84, R91). -/
theorem encodes_its_row (i : Instr) : Laws.EncodesItsRow.Statement i := by
  open Laws.EncodesItsRow in
  cases i with
  | wakeRead => exact wakeRead
  | postMsg => exact postMsg
  | postBrownout => exact postBrownout
  | lfStart => exact lfStart
  | hfStartDelay => exact hfStartDelay
  | hfStartIrq => exact hfStartIrq
  | clkStart => exact clkStart
  | clkNow => exact clkNow
  | clkReset0 => exact clkReset0
  | clkIsRunning => exact clkIsRunning
  | clkWaitTick => exact clkWaitTick
  | tmrStart idx cb timeout => exact tmrStart idx cb timeout
  | tmrCancel idx => exact tmrCancel idx
  | tmrIsStarted idx => exact tmrIsStarted idx
  | tmrIsExpired idx => exact tmrIsExpired idx
  | taskSched id duration => exact taskSched id duration
  | slpTimeout t => exact slpTimeout t
  | slpDuration d => exact slpDuration d
  | slpUntil reason => exact slpUntil reason
  | slpIsTimer => exact slpIsTimer
  | slpSetSane m => exact slpSetSane m

/-- Settles O4. -/
theorem decodeSelectsExactlyOneRow : Obligations.DecodeSelectsExactlyOneRow := by
  have selected : ∀ (w : Word) (i : Instr), decode w = .ok i →
      ∃ r ∈ opcodeMap, r.selects w = true ∧ r.mnemonic = i.mnemonic := by
    intro w i h
    obtain ⟨r, hr, hname, hsel⟩ := encodes_its_row i
    exact ⟨r, hr, encode_of_decode h ▸ hsel, hname⟩
  refine ⟨fun w => ⟨?_, ?_⟩, fun w r q => selected_row_unique, selected⟩
  · rintro ⟨i, h⟩
    obtain ⟨r, hr, hsel, -⟩ := selected w i h
    exact ⟨r, hr, hsel⟩
  · rintro ⟨r, hr, hsel⟩
    obtain ⟨i, h⟩ := exists_encode_of_selects hr hsel
    exact ⟨i, decode_of_encode h⟩

/-! ## Illegal words -/

/-- A command's word breaks no must-be-zero bit (R85, R91). -/
theorem breaksReserved_encode (i : Instr) : breaksReserved (encode i) = false := by
  cases i with
  | tmrStart idx cb timeout => simp [encode, breaksReserved]
  | tmrCancel idx => simp [encode, breaksReserved]
  | tmrIsStarted idx => simp [encode, breaksReserved]
  | tmrIsExpired idx => simp [encode, breaksReserved]
  | taskSched id duration => simp [encode, breaksReserved]
  | slpTimeout t => simp [encode, breaksReserved]
  | slpDuration d => simp [encode, breaksReserved]
  | slpUntil reason => cases reason <;> rfl
  | slpSetSane m => simp [encode, breaksReserved]
  | _ => rfl

theorem fieldSub_encode_lt {i : Instr} (h : fieldOp (encode i) = 0) : (fieldSub (encode i)).toNat < 7 := by
  cases i <;> simp [encode] at h
  all_goals decide

theorem not_illegalWord_encode (i : Instr) : ¬ IllegalWord (encode i) := by
  rintro (hzero | ⟨hop, hsub⟩ | hreserved)
  · exact nomatch (decode_of_encode hzero : (.error .zeroWord : Except Illegal Instr) = .ok i)
  · exact absurd (fieldSub_encode_lt hop) (Nat.not_lt.mpr hsub)
  · simp [breaksReserved_encode] at hreserved

theorem exists_error_of_illegal {w : Word} (hw : IllegalWord w) : ∃ e, decode w = .error e := by
  cases h : decode w with
  | ok i => exact absurd hw (encode_of_decode h ▸ not_illegalWord_encode i)
  | error e => exact ⟨e, rfl⟩

/-- The words that do not decode are the illegal ones. -/
theorem exists_decode_iff (w : Word) : (∃ i, decode w = .ok i) ↔ ¬ IllegalWord w := by
  refine ⟨?_, fun hw => ?_⟩
  · rintro ⟨i, h⟩
    exact encode_of_decode h ▸ not_illegalWord_encode i
  · have h := answers_decode w
    cases hd : decode w with
    | ok i => exact ⟨i, rfl⟩
    | error e => rw [hd] at h; exact absurd h hw

/-! ## The fault of an illegal word, and of an index out of range -/

namespace Machine

/-- In an unfaulted block an illegal word is the fault at decode, in whichever list it stands (R86). -/
theorem runWord_of_illegal {s : State} {w : Word} (hw : IllegalWord w) (hf : s.fault = false) :
    runWord w s =
      .next { s with
        fault := true, faultCode := .illegalCommand, history := s.history ++ [.fault .illegalCommand] } := by
  obtain ⟨e, he⟩ := exists_error_of_illegal hw
  rw [runWord, he]
  exact congrArg _ (s.raiseFault_of_ok hf)

theorem State.fault_of_fgMayStep {s : State} (h : s.fgMayStep = true) : s.fault = false := by
  by_contra hf
  exact absurd (State.fgMayStep_eq_false_iff.mpr (.inl (by simpa using hf))) (by simp [h])

theorem fgStep_of_fetch {s : State} {w : Word} (hm : s.fgMayStep = true) (hf : s.fgFrame = none)
    (hw : fetch s.fgWords s.pc = .word w) : fgStep s = runWord w s := by
  rw [fgStep, if_pos hm, hf, hw]

theorem listStep_of_fetch {s : State} (f : IsrFrame) {l : ListFrame} {w : Word} (hf : l.frame = none)
    (hw : fetch (listWords s.cfg l.list) l.pc = .word w) : listStep f l s = runWord w s := by
  rw [listStep, hf, hw]

/-- Settles O5. -/
theorem illegalWordRaisesFault : Obligations.IllegalWordRaisesFault := by
  refine ⟨exists_decode_iff, fun s w hw => ⟨fun hmove hmay hframe hfetch => ?fg, ?list⟩⟩
  case fg =>
    rw [step_of_fg hmove, fgStep_of_fetch (by simpa using hmay) (by simpa using hframe) (by simpa using hfetch),
      runWord_of_illegal hw (by simpa using State.fault_of_fgMayStep hmay), State.takeMove_history]
  case list =>
    intro line f l rest hmove hf ha hfr hl hframe hfetch
    rw [step_of_list hmove hf ha hfr hl, listStep_of_fetch f hframe (by simpa using hfetch),
      runWord_of_illegal hw (by simpa using hf), State.takeMove_history]

theorem poolIx?_eq_none {n : PoolSize} {idx : BitVec 2} (h : legalIdx n idx = false) : poolIx? n idx = none := by
  rw [← Option.not_isSome_iff_eq_none, poolIx?_isSome, h]
  decide

theorem withPoolIx_of_none {ℓ α : Type} {idx : BitVec 2} {s : State} (h : poolIx? s.cfg.nTimers idx = none)
    (m : PoolIx → Micro ℓ α) : withPoolIx idx s m = .fault .badIndex s := by
  rw [withPoolIx, h]

/-- Settles O20. -/
theorem badIndexRaisesFault : Obligations.BadIndexRaisesFault := by
  refine ⟨fun n idx => ?named, ⟨rfl, rfl, rfl⟩, fun s idx hidx => ?faults⟩
  case named => revert idx; cases n <;> decide
  case faults =>
    have hnone : poolIx? s.cfg.nTimers idx = none := by
      apply poolIx?_eq_none
      obtain ⟨hn, h⟩ | ⟨hn, h⟩ := hidx
      · simpa [hn, legalIdx, Nat.succ_le_iff] using h
      · simp [hn, legalIdx, h]
    refine ⟨fun cb timeout => ?_, ?_, ?_, ?_⟩
    · rw [exec, execTmrStart, withPoolIx_of_none hnone, Micro.settle]
    · rw [exec, execTmrCancel, withPoolIx_of_none hnone, Micro.settle]
    · rw [exec, execTmrIsStarted, hnone]
    · rw [exec, execTmrIsExpired, hnone]

end Machine

end Sys2Proof
end

section
/-! SUPPORT. Faults: who raises ILLEGAL_CONTEXT, and what a step that raises a fault leaves as it was. -/

namespace Sys2Proof.Machine

/-! ## The context check -/

theorem foregroundOnly_isr {ℓ α : Type} {s : State} (ha : s.isrActive = true) (m : Micro ℓ α) :
    foregroundOnly s m = .fault .illegalContext s := by
  rw [foregroundOnly, s.ctx_isr ha]

theorem foregroundOnly_fg {ℓ α : Type} {s : State} (ha : s.isrActive = false) (m : Micro ℓ α) :
    foregroundOnly s m = m := by
  rw [foregroundOnly, s.ctx_fg ha]

/-- ILLEGAL_CONTEXT is not the fault recorded. -/
def State.ContextOk (s : State) : Prop := s.faultCode ≠ .illegalContext

/-- The micro-step neither raises ILLEGAL_CONTEXT nor has it recorded. -/
def Micro.ContextOk {ℓ α : Type} : Micro ℓ α → Prop :=
  Micro.Sat (fun _ u => u.ContextOk) (fun _ u => u.ContextOk) (fun c u => c ≠ .illegalContext ∧ u.ContextOk)

theorem State.ContextOk.raiseFault {s : State} (h : s.ContextOk) {c : FaultCode} (hc : c ≠ .illegalContext) :
    (s.raiseFault c).ContextOk := by
  unfold State.raiseFault
  split
  · exact h
  · exact hc

theorem State.ContextOk.of_eq {s u : State} (h : s.ContextOk) (hu : u.faultCode = s.faultCode) : u.ContextOk := by
  rwa [State.ContextOk, hu]

theorem State.ContextOk.complete {s : State} (h : s.ContextOk) : s.complete.ContextOk := h.of_eq (by simp)

theorem Micro.ContextOk.call {ℓ μ α β : Type} {m : Micro ℓ α} {into : ℓ → μ} {k : α → State → Micro μ β}
    (h : m.ContextOk) (hk : ∀ v u, u.ContextOk → (k v u).ContextOk) : (m.call into k).ContextOk :=
  Micro.Sat.call h (fun _ _ h => h) hk fun _ _ h => h

theorem Micro.ContextOk.settle {ℓ α : Type} {m : Micro ℓ α} {i : Instr} {into : ℓ → Label}
    {result : α → State → State} (h : m.ContextOk) (hr : ∀ v u, u.ContextOk → (result v u).ContextOk) :
    (m.settle i into result).ContextOk :=
  Micro.Sat.settle h (fun _ _ h => h.of_eq (by simp)) (fun v u h => (hr v u h).complete)
    fun _ _ ⟨hc, h⟩ => h.raiseFault hc

section

variable {s : State} (hs : s.ContextOk)
include hs

theorem nowStep_contextOk (l : NowLabel) : (nowStep l s).ContextOk := by
  cases l with
  | s1 => exact hs
  | s2 a => exact hs
  | s3 a low =>
    simp only [nowStep, recordNow]
    split
    · split
      · exact ⟨by decide, hs⟩
      · exact hs
    · exact hs

theorem armStep_contextOk (ch : ChIx) (d : Ticks) (l : ArmLabel) : (armStep ch d l s).ContextOk := by
  cases l with
  | now l => exact (nowStep_contextOk hs l).call fun _ _ h => h
  | compare t0 => exact hs
  | commit t0 => exact hs.of_eq (by simp)

theorem stopStep_contextOk (j : PoolIx) (l : StopLabel) : (stopStep j l s).ContextOk := by
  cases l <;> exact hs

theorem startCheck_contextOk (j : PoolIx) (cb : BitVec 2) : (startCheck j cb s).ContextOk := by
  unfold startCheck
  split
  · split
    · exact ⟨by decide, hs⟩
    · exact hs
  · exact hs

theorem schedCheck_contextOk (id : BitVec 2) : (schedCheck id s).ContextOk := by
  unfold schedCheck
  split
  · split
    · exact ⟨by decide, hs⟩
    · exact hs
  · exact hs

theorem waitStep_contextOk (l : WaitLabel) : (waitStep l s).ContextOk := by
  cases l with
  | s1 =>
    simp only [waitStep]
    split
    · split <;> exact hs
    · exact hs
  | s2 => simp only [waitStep]; split <;> exact hs

theorem saneCheck_contextOk {ℓ : Type} (t : Ticks) : (saneCheck t s : Micro ℓ Ticks).ContextOk := by
  unfold saneCheck
  split
  · exact hs
  · split
    · exact ⟨by decide, hs⟩
    · exact hs

theorem sleepStep_contextOk (t : Ticks) (l : SleepLabel) : (sleepStep t l s).ContextOk := by
  cases l with
  | clear => exact hs
  | sane => exact (saneCheck_contextOk hs t).call fun _ _ h => h
  | start t => exact (startCheck_contextOk hs .t0 0).call fun _ _ h => h
  | arm t l => exact (armStep_contextOk hs .ch0 t l).call fun _ _ h => h
  | wait l => exact (waitStep_contextOk hs l).call fun _ _ h => h
  | stop l => exact (stopStep_contextOk hs .t0 l).call fun _ _ h => h

theorem durationStep_contextOk (d : Ticks) (l : DurationLabel) : (durationStep d l s).ContextOk := by
  cases l with
  | begin l => exact (nowStep_contextOk hs l).call fun _ _ h => h
  | again start l => exact (nowStep_contextOk hs l).call fun _ _ h => h
  | sleep start t l => exact (sleepStep_contextOk hs t l).call fun _ _ h => h
  | test start => simp only [durationStep]; split <;> exact hs

theorem untilStep_contextOk (r : WakeReason) (l : UntilLabel) : (untilStep r l s).ContextOk := by
  cases l with
  | wait l => exact (waitStep_contextOk hs l).call fun _ _ h => h
  | test => simp only [untilStep]; split <;> exact hs

theorem lfStep_contextOk (l : LfLabel) : (lfStep l s).ContextOk := by
  cases l with
  | enable => exact hs
  | request => exact hs.of_eq (by simp)
  | loop l => exact (untilStep_contextOk hs _ l).call fun _ _ h => h
  | disable => exact hs

theorem hfCheck_contextOk : (hfCheck s).ContextOk := by
  unfold hfCheck
  split
  · exact ⟨by decide, hs⟩
  · exact hs

theorem hfIrqStep_contextOk (l : HfIrqLabel) : (hfIrqStep l s).ContextOk := by
  cases l with
  | clear => exact hs
  | enable => exact hs
  | request => exact hs.of_eq (by simp)
  | loop l => exact (untilStep_contextOk hs _ l).call fun _ _ h => h
  | disable => exact hs

theorem withPoolIx_contextOk {ℓ α : Type} (idx : BitVec 2) {m : PoolIx → Micro ℓ α} (hm : ∀ j, (m j).ContextOk) :
    (withPoolIx idx s m).ContextOk := by
  unfold withPoolIx
  split
  · exact hm _
  · exact ⟨by decide, hs⟩

/-- No cell of the arbitration table raises ILLEGAL_CONTEXT (42_sleep.md R181). -/
theorem post_contextOk (p : Post) : (s.post p).ContextOk := by
  unfold State.post arbWrite
  cases h : arbTable s.wake p with
  | write => exact State.ContextOk.complete hs
  | keep => exact hs.complete
  | fault c =>
    refine hs.raiseFault ?_
    rintro rfl
    cases p <;> cases hw : s.wake <;> simp [arbTable, hw] at h

/-- A micro-step of a command that may run in its context does not raise ILLEGAL_CONTEXT (30_encoding.md R88). -/
theorem exec_contextOk {i : Instr} {t : State} (hctx : waitsFor i = false ∨ s.isrActive = false)
    (h : exec i s = .next t) : t.ContextOk := by
  have same : ∀ (_ : Unit) (u : State), u.ContextOk → u.ContextOk := fun _ _ h => h
  have fg : waitsFor i = true → s.isrActive = false := fun hi => hctx.resolve_left (by simp [hi])
  cases i <;> cases h
  case wakeRead => exact State.ContextOk.complete hs
  case postMsg => exact post_contextOk hs _
  case postBrownout => exact post_contextOk hs _
  case lfStart =>
    rw [foregroundOnly_fg (fg rfl)]
    refine Micro.ContextOk.settle ?_ same
    split
    · exact lfStep_contextOk hs _
    · exact hs
  case hfStartDelay =>
    rw [foregroundOnly_fg (fg rfl)]
    refine Micro.ContextOk.settle ?_ same
    split
    · exact durationStep_contextOk hs _ _
    · exact hs.of_eq (by simp)
  case hfStartIrq =>
    rw [foregroundOnly_fg (fg rfl)]
    refine Micro.ContextOk.settle ?_ same
    split
    · exact hfIrqStep_contextOk hs _
    · exact hfCheck_contextOk hs
  case clkStart =>
    split
    · exact hs.raiseFault (by decide)
    · exact State.ContextOk.complete (hs.of_eq (by simp))
  case clkNow => exact (nowStep_contextOk hs _).settle fun _ _ h => h
  case clkReset0 => exact State.ContextOk.complete hs
  case clkIsRunning => exact State.ContextOk.complete hs
  case clkWaitTick =>
    refine Micro.ContextOk.settle ?_ same
    unfold waitTickStep
    split
    · exact hs
    · split <;> exact hs
  case tmrStart =>
    refine (withPoolIx_contextOk hs _ fun j => ?_).settle same
    split
    · exact armStep_contextOk hs _ _ _
    · exact startCheck_contextOk hs _ _
  case tmrCancel =>
    refine (withPoolIx_contextOk hs _ fun j => ?_).settle same
    split
    · exact stopStep_contextOk hs _ _
    · exact hs
  case tmrIsStarted =>
    split
    · exact State.ContextOk.complete hs
    · exact hs.raiseFault (by decide)
  case tmrIsExpired =>
    split
    · exact State.ContextOk.complete hs
    · exact hs.raiseFault (by decide)
  case taskSched =>
    refine Micro.ContextOk.settle ?_ same
    split
    · exact armStep_contextOk hs _ _ _
    · exact schedCheck_contextOk hs _
  case slpTimeout =>
    rw [foregroundOnly_fg (fg rfl)]
    exact (sleepStep_contextOk hs _ _).settle same
  case slpDuration =>
    rw [foregroundOnly_fg (fg rfl)]
    refine Micro.ContextOk.settle ?_ same
    split
    · exact durationStep_contextOk hs _ _
    · exact hs
  case slpUntil =>
    rw [foregroundOnly_fg (fg rfl)]
    refine Micro.ContextOk.settle ?_ same
    split
    · exact untilStep_contextOk hs _ _
    · exact hs
  case slpIsTimer => exact State.ContextOk.complete hs
  case slpSetSane => exact State.ContextOk.complete hs

end

/-- The six by name (30_encoding.md R88). -/
theorem waitsFor_iff (i : Instr) :
    waitsFor i = true ↔
      (∃ t, i = .slpTimeout t) ∨ (∃ d, i = .slpDuration d) ∨ (∃ r, i = .slpUntil r) ∨ i = .lfStart ∨ i = .hfStartDelay
        ∨ i = .hfStartIrq := by
  constructor
  · intro h
    cases i with
    | slpTimeout t => exact .inl ⟨t, rfl⟩
    | slpDuration d => exact .inr (.inl ⟨d, rfl⟩)
    | slpUntil r => exact .inr (.inr (.inl ⟨r, rfl⟩))
    | lfStart => exact .inr (.inr (.inr (.inl rfl)))
    | hfStartDelay => exact .inr (.inr (.inr (.inr (.inl rfl))))
    | hfStartIrq => exact .inr (.inr (.inr (.inr (.inr rfl))))
    | _ => cases h
  · rintro (⟨t, rfl⟩ | ⟨d, rfl⟩ | ⟨r, rfl⟩ | rfl | rfl | rfl) <;> rfl

/-- Settles O34. -/
theorem waitingCommandsAreForegroundOnly : Obligations.WaitingCommandsAreForegroundOnly :=
  ⟨fun _ _ => exec_waiting_isr, fun _ _ _ hctx hs h => exec_contextOk hs hctx h, waitsFor_iff⟩

/-! ## What raising a fault leaves as it was -/

/-- `t` is `s` with one write beside the bookkeeping, and then a fault raised in it. -/
def State.Raises (s t : State) : Prop :=
  ∃ c u, c ≠ .none ∧ s.SameSeq u ∧ u.fgWaiting = s.fgWaiting ∧ t = u.raiseFault c

section

variable {s t : State}

theorem State.SameSeq.refl (s : State) : s.SameSeq s := ⟨rfl, rfl, rfl, rfl, rfl, rfl, rfl, rfl, rfl⟩

theorem State.raises_raiseFault {c : FaultCode} (hc : c ≠ .none) : s.Raises (s.raiseFault c) :=
  ⟨c, s, hc, .refl s, rfl, rfl⟩

theorem State.SameSeq.fault_eq {u : State} (h : s.SameSeq u) : u.fault = s.fault := by
  obtain ⟨-, -, -, -, -, -, -, hfault, -⟩ := h
  exact hfault

/-- A micro-step of a command records a fault only by raising it. -/
theorem exec_raises {i : Instr} (h : exec i s = .next t) : t.fault = s.fault ∨ s.Raises t := by
  cases exec_microStep h with
  | held l he _ _ => exact .inl (by simpa using he.sameSeq.fault_eq)
  | done he _ => exact .inl (by simpa using he.sameSeq.fault_eq)
  | fault c hc => exact .inr (State.raises_raiseFault hc)

/-- A micro-step of a handler records a fault only by raising it. -/
theorem HandlerMicro.raises {f : IsrFrame} (h : HandlerMicro f s t) : t.fault = s.fault ∨ s.Raises t := by
  cases h with
  | goes g l he _ => exact .inl he.sameSeq.1.fault_eq
  | invokes l id he => exact .inl he.sameSeq.1.fault_eq
  | stays => exact .inl rfl
  | fault c he hc => exact .inr ⟨c, _, hc, he.sameSeq.1, he.sameSeq.2, rfl⟩
  | exits _ => exact .inl rfl

theorem fgStep_raises (h : fgStep s = .next t) : t.fault = s.fault ∨ s.Raises t := by
  obtain rfl | ⟨-, f, -, h⟩ | ⟨-, -, w, -, ⟨i, -, h⟩ | ⟨e, -, rfl⟩⟩ := fgStep_cases h
  · exact .inl rfl
  · exact exec_raises h
  · exact exec_raises h
  · exact .inr (State.raises_raiseFault (by decide))

theorem isrStep_raises {line : Line} (h : isrStep line s = .next t) : t.fault = s.fault ∨ s.Raises t := by
  obtain rfl | ⟨-, -, -, rfl⟩ | ⟨-, -, f, -, ⟨-, rfl⟩ | ⟨l, rest, -, hlist⟩⟩ := isrStep_cases h
  · exact .inl rfl
  · exact .inl rfl
  · exact (handlerStep_micro f s).raises
  · obtain ⟨c, -, h⟩ | ⟨-, -, rfl⟩ | ⟨-, w, -, ⟨i, -, h⟩ | ⟨e, -, rfl⟩⟩ := hlist
    · exact exec_raises h
    · exact .inl rfl
    · exact exec_raises h
    · exact .inr (State.raises_raiseFault (by decide))

/-- A move of any agent records a fault only by raising it; beside the sequencers only the host does so (R65). -/
theorem moveStep_raises {m : Move} (h : moveStep m s = .next t) : t.fault = s.fault ∨ s.Raises t := by
  cases m with
  | fg => exact fgStep_raises h
  | isr line => exact isrStep_raises h
  | cnt d => cases h; unfold cntStep; split <;> exact .inl rfl
  | settle => cases h; unfold settleStep; split <;> exact .inl rfl
  | osc x => cases h; cases x <;> simp only [oscStep] <;> split <;> exact .inl rfl
  | envRadio => cases h; exact .inl rfl
  | envPower => cases h; exact .inl rfl
  | envWake => cases h; unfold envWakeStep; split <;> exact .inl rfl
  | hostRead addr n =>
    cases h
    unfold hostReadStep
    split
    · exact .inl rfl
    · exact .inr (State.raises_raiseFault (by decide))
  | hostWrite addr n v =>
    cases h
    unfold hostWriteStep
    split
    · obtain ⟨hi, -⟩ | ⟨hi, -⟩ | ⟨hi, -⟩ := issue_cases s v <;> rw [hi] <;> exact .inl rfl
    · exact .inr (State.raises_raiseFault (by decide))

/-- What the state after the first fault has, and what it keeps (60_exceptions.md R243). -/
theorem State.Raises.spec (h : s.Raises t) (hf : s.fault = false) :
    t.faultCode ≠ .none ∧ (∃ h, t.history = h ++ [.fault t.faultCode]) ∧ t.pc = s.pc ∧ t.fgFrame = s.fgFrame
      ∧ t.isrFrame = s.isrFrame ∧ t.isrActive = s.isrActive ∧ t.fgWaiting = s.fgWaiting := by
  obtain ⟨c, u, hc, ⟨-, hpc, hframe, -, -, hactive, hisr, hfault, -⟩, hwaiting, rfl⟩ := h
  rw [u.raiseFault_of_ok (hfault.trans hf)]
  exact ⟨hc, ⟨u.history, rfl⟩, hpc, hframe, hisr, hactive, hwaiting⟩

/-- Beside the sequencers only the spurious wake moves `FG_WAITING` (42_sleep.md R186). -/
theorem moveStep_fgWaiting {m : Move} (hfg : m ≠ .fg) (hisr : ∀ line, m ≠ .isr line) (h : moveStep m s = .next t) :
    t.fgWaiting = s.fgWaiting ∨ (m = .envWake ∧ t = envWakeStep s) := by
  cases m with
  | fg => exact absurd rfl hfg
  | isr line => exact absurd rfl (hisr line)
  | cnt d => cases h; unfold cntStep; split <;> exact .inl rfl
  | settle => cases h; unfold settleStep; split <;> exact .inl rfl
  | osc x => cases h; cases x <;> simp only [oscStep] <;> split <;> exact .inl rfl
  | envRadio => cases h; exact .inl rfl
  | envPower => cases h; exact .inl rfl
  | envWake => cases h; exact .inr ⟨rfl, rfl⟩
  | hostRead addr n => cases h; unfold hostReadStep; split <;> simp
  | hostWrite addr n v =>
    cases h
    unfold hostWriteStep
    split
    · obtain ⟨hi, -⟩ | ⟨hi, -⟩ | ⟨hi, -⟩ := issue_cases s v <;> rw [hi] <;> exact .inl rfl
    · simp

/-- The spurious wake of a faulted block, as the free value admits it (log 28). -/
theorem envWakeStep_faulted (hf : s.fault = true) :
    (envWakeStep s).fgWaiting = s.fgWaiting
      ∨ (s.cfg.spuriousWake = true ∧ s.cfg.faultedWake = true ∧ (envWakeStep s).fgWaiting = false) := by
  rw [envWakeStep_eq]
  split
  · rename_i hwake
    simp_all
  · exact .inl rfl

/-- In a faulted block the sequencers do nothing, and no other move reaches them or `RES` (00_scope.md R7,
60_exceptions.md R243). -/
theorem moveStep_faulted {m : Move} (hf : s.fault = true) (h : moveStep m s = .next t) :
    t.pc = s.pc ∧ t.fgFrame = s.fgFrame ∧ t.isrFrame = s.isrFrame ∧ t.isrActive = s.isrActive ∧ t.res = s.res
      ∧ (t.fgWaiting = s.fgWaiting
        ∨ (m = .envWake ∧ s.cfg.spuriousWake = true ∧ s.cfg.faultedWake = true ∧ t.fgWaiting = false)) := by
  by_cases hfg : m = .fg
  · subst hfg
    rw [moveStep, fgStep_of_held (State.fgMayStep_eq_false_iff.mpr (.inl hf))] at h
    cases h
    exact ⟨rfl, rfl, rfl, rfl, rfl, .inl rfl⟩
  by_cases hisr : ∃ line, m = .isr line
  · obtain ⟨line, rfl⟩ := hisr
    rw [moveStep, isrStep_of_faulted line hf] at h
    cases h
    exact ⟨rfl, rfl, rfl, rfl, rfl, .inl rfl⟩
  have hisr : ∀ line, m ≠ .isr line := fun line hl => hisr ⟨line, hl⟩
  obtain ⟨hst, hframe⟩ := standing_moveStep hfg hisr h
  have hres : t.res = s.res := by
    obtain ⟨d, -, rfl⟩ | hshared := moveStep_kinds hfg hisr h
    · rfl
    · exact congrArg Shared.res hshared
  refine ⟨State.pc_of_standing hst, State.fgFrame_of_standing hst, hframe, State.isrActive_of_standing hst, hres, ?_⟩
  obtain hw | ⟨rfl, rfl⟩ := moveStep_fgWaiting hfg hisr h
  · exact .inl hw
  · exact (envWakeStep_faulted hf).imp id fun hwake => ⟨rfl, hwake⟩

end

/-- Settles O35. -/
theorem raisingAFault : Obligations.RaisingAFault := by
  refine ⟨fun s c => s.raiseFault_of_ok, fun s c => s.raiseFault_of_faulted, fun s t hf h ht => ?raised,
    fun s t hf h => ?faulted⟩
  case raised =>
    rw [step_eq] at h
    obtain hsame | hraises := moveStep_raises h
    · simp [hsame, hf] at ht
    · simpa using hraises.spec (by simpa using hf)
  case faulted =>
    rw [step_eq] at h
    simpa using moveStep_faulted (by simpa using hf) h

end Sys2Proof.Machine
end

section
/-! SUPPORT. The extended clock and the agents that step on their own: the time as a number, the micro-steps of the CLK commands
under a label and between two commands, and the moves of the counter, the settle agent and the oscillators. -/

namespace Sys2Proof.Machine

/-! ## Times and durations -/

/-- The tally and the counter do not overlap in a time (40_clock.md R106). -/
theorem time_toNat (a : Word) (low : Ticks) : (time a low).toNat = a.toNat * 2 ^ 24 + low.toNat := by
  have ha := a.isLt
  have hlow := low.isLt
  have hshift : a.toNat <<< 24 % 2 ^ 56 = a.toNat <<< 24 :=
    Nat.mod_eq_of_lt (by rw [Nat.shiftLeft_eq]; omega)
  rw [time, BitVec.toNat_or, BitVec.toNat_shiftLeft, BitVec.toNat_setWidth_of_le (by decide),
    BitVec.toNat_setWidth_of_le (by decide), hshift, ← Nat.shiftLeft_add_eq_or_of_lt hlow, Nat.shiftLeft_eq]

/-- The low 24 bits of a time are the counter value read (40_clock.md R106). -/
theorem setWidth_time (a : Word) (low : Ticks) : (time a low).setWidth 24 = low := by
  have hlow := low.isLt
  apply BitVec.eq_of_toNat_eq
  rw [BitVec.toNat_setWidth, time_toNat]
  omega

/-- Settles O14. -/
theorem durationArithmetic : Obligations.DurationArithmetic := by
  refine ⟨fun later earlier => ?difference, fun x => ?saturated⟩
  case difference =>
    unfold clampedDiff
    simp only [BitVec.le_def]
    split
    · exact BitVec.toNat_sub_of_le ‹_›
    · rfl
  case saturated =>
    have hmax : (0xFFFFFF : Time).toNat = 0xFFFFFF := rfl
    have hmax' : (0xFFFFFF : Ticks).toNat = 0xFFFFFF := rfl
    unfold toTicks24
    simp only [BitVec.le_def]
    split
    · rw [BitVec.toNat_setWidth]; omega
    · omega

/-! ## The executing list between two micro-steps of a command -/

section

variable {s : State}

theorem State.frame_of_at {i : Instr} {l : Label} (h : s.at i l = true) : s.frame = some ⟨i, l⟩ := by
  simpa [State.at] using h

theorem State.at_of_frame {i : Instr} {l : Label} (h : s.frame = some ⟨i, l⟩) : s.at i l = true := by
  simp [State.at, h]

/-- Between two commands it is the foreground or the top of the list stack that executes (60_exceptions.md R261). -/
theorem State.executing_of_atCommandStart (h : s.atCommandStart = true) :
    s.isrActive = false ∨ s.isrActive = true ∧ ∃ g l rest, s.isrFrame = some g ∧ g.stack = l :: rest := by
  cases ha : s.isrActive with
  | false => exact .inl rfl
  | true =>
    refine .inr ⟨rfl, ?_⟩
    cases hf : s.isrFrame with
    | none => simp [State.atCommandStart, State.ctx, ha, State.listStack, hf] at h
    | some g =>
      cases hk : g.stack with
      | nil => simp [State.atCommandStart, State.ctx, ha, State.listStack, hf, hk] at h
      | cons l rest => exact ⟨g, l, rest, rfl, hk⟩

section

variable (h : s.atCommandStart = true) (f : CmdFrame)
include h

theorem State.frame_hold : (s.hold f).frame = some f := by
  obtain ha | ⟨ha, g, l, rest, hg, hl⟩ := State.executing_of_atCommandStart h
  · simp [State.hold_fg s ha, State.frame, State.ctx, ha]
  · simp [State.hold_isr s ha hg hl, State.frame, State.ctx, ha, State.listStack]

/-- A second `hold` replaces the frame of the first (10_state.md R23). -/
theorem State.hold_hold (f' : CmdFrame) : (s.hold f).hold f' = s.hold f' := by
  obtain ha | ⟨ha, g, l, rest, hg, hl⟩ := State.executing_of_atCommandStart h
  · rw [State.hold_fg s ha, State.hold_fg s ha]
    exact State.hold_fg { s with fgFrame := some f } ha f'
  · rw [State.hold_isr s ha hg hl, State.hold_isr s ha hg hl]
    refine State.hold_isr _ (g := { g with stack := { l with frame := some f } :: rest }) ?_ rfl rfl f'
    exact ha

/-- The command that was held completes as if it had done its last micro-step at once (30_encoding.md R82). -/
theorem State.complete_hold (v : Time) (w : BitVec 64) :
    { s.hold f with lastNow := v, res := w }.complete = { s with lastNow := v, res := w }.complete := by
  obtain ha | ⟨ha, g, l, rest, hg, hl⟩ := State.executing_of_atCommandStart h
  · rw [State.hold_fg s ha, State.complete_fg { s with lastNow := v, res := w } ha]
    exact State.complete_fg { s with lastNow := v, res := w, fgFrame := some f } ha
  · rw [State.hold_isr s ha hg hl, State.complete_isr { s with lastNow := v, res := w } ha hg hl]
    refine State.complete_isr _ (g := { g with stack := { l with frame := some f } :: rest })
      (l := { l with frame := some f }) ?_ rfl rfl
    exact ha

end

end

/-! ## CLK.START -/

/-- Settles O10. -/
theorem clkStartRestartsTheClock : Obligations.ClkStartRestartsTheClock := by
  have started {s : State} (hok : s.cfg.build = .release ∨ s.lfclk ≠ .stopped) :
      exec .clkStart s = .next s.startClock.complete := by
    have hcheck : ¬ (s.cfg.build = .debug ∧ s.lfclk = .stopped) := by
      rintro ⟨hdebug, hstopped⟩
      simp [hdebug, hstopped] at hok
    simp [exec, execClkStart, hcheck]
  refine ⟨by decide, fun s hdebug hstopped => ?_, fun s hok hinit => ?_, fun s hok hinit => ?_⟩
  · simp [exec, execClkStart, hdebug, hstopped]
  · simp [started hok, State.startClock, hinit]
  · cases hn : s.cfg.nTimers <;>
      simp [started hok, State.startClock, hinit, State.initPool, hn, poolIndices, Timer.reset]

/-! ## CLK.NOW -/

section

variable {s : State}

/-- CLK.NOW at `l` takes the micro-step of `NOW` there, and answers the time it returns (40_clock.md R107). -/
theorem exec_clkNow_at {l : NowLabel} (h : s.at .clkNow (.clkNow l) = true) :
    exec .clkNow s
      = .next ((nowStep l s).settle .clkNow .clkNow fun t s => { s with res := t.setWidth 64 }) := by
  simp [exec, execClkNow, s.labelOf_of_at (State.frame_of_at h)]

theorem exec_clkNow_start (h : s.frame = none ∨ s.at .clkNow (.clkNow .s1) = true) :
    exec .clkNow s = .next (s.hold ⟨.clkNow, .clkNow (.s2 s.ovf)⟩) := by
  obtain h | h := h
  · simp [exec, execClkNow, s.labelOf_of_idle h, nowStep, Micro.settle]
  · simp [exec_clkNow_at h, nowStep, Micro.settle]

theorem exec_clkNow_read {a : Word} (h : s.at .clkNow (.clkNow (.s2 a)) = true) :
    exec .clkNow s = .next (s.hold ⟨.clkNow, .clkNow (.s3 a s.counter)⟩) := by
  simp [exec_clkNow_at h, nowStep, Micro.settle]

/-- The two readings of the tally agree and the time is not behind `LAST_NOW`, or nobody checks it
(40_clock.md R106, R108). -/
theorem exec_clkNow_return {low : Ticks} (h : s.at .clkNow (.clkNow (.s3 s.ovf low)) = true)
    (hok : s.cfg.build = .release ∨ s.lastNow ≤ time s.ovf low) :
    exec .clkNow s
      = .next { s with lastNow := time s.ovf low, res := (time s.ovf low).setWidth 64 }.complete := by
  have hcheck : ¬ (s.cfg.build = .debug ∧ time s.ovf low < s.lastNow) := by
    rintro ⟨hdebug, hlt⟩
    obtain hrelease | hle := hok
    · simp [hdebug] at hrelease
    · exact absurd hlt (BitVec.not_lt.mpr hle)
  simp [exec_clkNow_at h, nowStep, recordNow, hcheck, Micro.settle]

/-- The three micro-steps of an uninterrupted CLK.NOW read the present time. -/
theorem execTimes_clkNow (h : s.atCommandStart = true)
    (hok : s.cfg.build = .release ∨ s.lastNow ≤ time s.ovf s.counter) :
    execTimes 3 .clkNow s
      = .next { s with lastNow := time s.ovf s.counter, res := (time s.ovf s.counter).setWidth 64 }.complete := by
  have hidle : s.frame = none := by
    simp only [State.atCommandStart, Bool.and_eq_true, Option.isNone_iff_eq_none] at h
    exact h.1
  have first := exec_clkNow_start (.inl hidle)
  have second := exec_clkNow_read (State.at_of_frame (State.frame_hold h ⟨.clkNow, .clkNow (.s2 s.ovf)⟩))
  rw [State.hold_hold h, State.hold_counter] at second
  have third := exec_clkNow_return (s := s.hold ⟨.clkNow, .clkNow (.s3 s.ovf s.counter)⟩) (low := s.counter)
    (by rw [State.hold_ovf]; exact State.at_of_frame (State.frame_hold h _)) (by simpa using hok)
  rw [State.complete_hold h, State.hold_ovf] at third
  simp [execTimes, first, second, third]

end

/-- Settles O11. -/
theorem clkNowReadsTheTimeTwice : Obligations.ClkNowReadsTheTimeTwice := by
  refine ⟨by decide, time_toNat, fun s => exec_clkNow_start, fun s a => exec_clkNow_read,
    fun s a low h => ⟨fun hne => ?retry, fun heq hdebug hlt => ?fault, ?done⟩, fun s => execTimes_clkNow⟩
  case retry => simp [exec_clkNow_at h, nowStep, hne, Micro.settle]
  case fault => simp [exec_clkNow_at h, nowStep, heq, recordNow, hdebug, heq ▸ hlt, Micro.settle]
  case done => rintro rfl; exact exec_clkNow_return h

/-! ## CLK.RESET0, CLK.ISRUNNING, CLK.WAITTICK -/

/-- Settles O12. -/
theorem clkReset0AndClkIsRunning : Obligations.ClkReset0AndClkIsRunning := by
  refine ⟨by decide, by decide, fun s => rfl, fun s hosc hrun => ?running, fun s hnot => ?stopped⟩
  case running => simp [exec, execClkIsRunning, State.answer, flag64, hosc, hrun]
  case stopped =>
    have hflag : (s.lfclk == .running && s.counterRunning) = false := by
      obtain hosc | hrun := hnot
      · simp [hosc]
      · simp [hrun]
    simp [exec, execClkIsRunning, State.answer, flag64, hflag]

/-- Settles O13. -/
theorem clkWaitTickSpins : Obligations.ClkWaitTickSpins := by
  refine ⟨by decide, fun s hidle => ?read, fun s t0 h => ?spin⟩
  case read => simp [exec, execClkWaitTick, s.labelOf_of_idle hidle, waitTickStep, Micro.settle]
  case spin =>
    have hstep : exec .clkWaitTick s
        = .next ((waitTickStep (some t0) s).settle .clkWaitTick .clkWaitTick fun _ s => s) := by
      simp [exec, execClkWaitTick, s.labelOf_of_at (State.frame_of_at h)]
    exact ⟨fun heq => by simp [hstep, waitTickStep, heq, Micro.settle],
      fun hne => by simp [hstep, waitTickStep, hne, Micro.settle]⟩

/-! ## The hardware agents -/

section

variable {s : State} {d : Draws}

theorem step_of_cnt (h : s.nextMove = .cnt d) : step s = .next (cntStep d s.takeMove) := by
  rw [step_eq, h, moveStep]

theorem cntMayStep_takeMove : s.takeMove.cntMayStep = s.cntMayStep := by simp [State.cntMayStep]

/-- The next counter value is 0 in the tick that wraps (40_clock.md R101). -/
theorem counter_add_one_eq_zero_iff (c : Ticks) : c + 1 = 0 ↔ c = 0xFFFFFF := by
  constructor <;> intro h <;> bv_omega

/-- A tick, field by field (40_clock.md R100, R101). -/
theorem State.tick_eq :
    s.tick d =
      { s with
        counter := s.counter + 1
        evtOvf := s.evtOvf || s.counter == 0xFFFFFF
        evtOvfClrPend := s.evtOvfClrPend && s.counter != 0xFFFFFF
        chans := (s.tick d).chans } := by
  simp only [State.tick, counter_add_one_eq_zero_iff]
  by_cases h : s.counter = 0xFFFFFF#24
  · simp [h]
  · simp [h, beq_false_of_ne h, bne]

/-- The draw for an uncertain match of a channel (41_timer.md R140). -/
def drawOf (d : Draws) : ChIx → Bool
  | .ch0 => d.fire0
  | .ch1 => d.fire1
  | .ch2 => d.fire2
  | .ch3 => d.fire3

/-- Each channel compares the new counter value on its own (41_timer.md R140). -/
theorem State.chans_tick (ch : ChIx) : (s.tick d).chans.get ch = (s.chan ch).onTick (s.counter + 1) (drawOf d ch) := by
  cases ch <;> rfl

end

/-- Settles O46: the fields by `State.tick_eq`, the channels one by one by `State.chans_tick`. -/
theorem counterTick : Obligations.CounterTick := by
  refine ⟨fun s d hmove hnot => ?_, fun s d hmove hrun hosc => ⟨(s.takeMove.tick d).chans, ?_, fun ch => ?_⟩⟩
  · have hmay : s.takeMove.cntMayStep = false := by
      rw [cntMayStep_takeMove]
      obtain hrun | hosc := hnot
      · simp [State.cntMayStep, hrun]
      · simp [State.cntMayStep, hosc]
    simp [step_of_cnt hmove, cntStep, hmay]
  · have hmay : s.takeMove.cntMayStep = true := by
      rw [cntMayStep_takeMove]
      simp [State.cntMayStep, hrun, hosc]
    rw [step_of_cnt hmove, cntStep, if_pos hmay, State.tick_eq]
    simp
  · rw [State.chans_tick, State.chan_takeMove, State.takeMove_counter]
    refine ⟨fun hne => ?_, fun heq hcertain => ?_, fun heq hunc => ?_⟩
    · exact if_neg hne
    · simp [Channel.onTick, heq, hcertain]
    · cases ch <;> simp [Channel.onTick, heq, hunc, drawOf]

/-- Settles O47. -/
theorem settleOscillatorsAndEvents : Obligations.SettleOscillatorsAndEvents := by
  refine ⟨fun s h => ?_, fun s h => ?_, fun s h => ?_, fun s h => ?_, fun s h => ?_⟩ <;> rw [step_eq, h, moveStep]
  · rw [settleStep, State.takeMove_evtOvfClrPend]
  · simp only [oscStep, State.takeMove_lfclk]
  · simp only [oscStep, State.takeMove_hfclk]
  · rfl
  · rfl

end Sys2Proof.Machine
end

section
/-! SUPPORT. A foreground time query is never torn. What a micro-step of any command does to its query is said once
(`exec_nextQuery`); every other step leaves the query, and its tally and counter only go on (`step_clockRuns`). -/

namespace Sys2Proof.Machine

/-! ## The next label of a query -/

/-- From `s` a micro-step leads from label `q` of a time query to label `q'`, `none` being outside a query, with `v` in `LAST_NOW`
(40_clock.md R106, R108). -/
inductive NextQuery (s : State) : Option NowLabel → Option NowLabel → Time → Prop
  | tally : NextQuery s (some .s1) (some (.s2 s.ovf)) s.lastNow
  | counter (a : Word) : NextQuery s (some (.s2 a)) (some (.s3 a s.counter)) s.lastNow
  | retry {a : Word} {low : Ticks} (h : a ≠ s.ovf) : NextQuery s (some (.s3 a low)) (some .s1) s.lastNow
  | returns {low : Ticks} {q : Option NowLabel} (hq : q = none ∨ q = some .s1) :
      NextQuery s (some (.s3 s.ovf low)) q (time s.ovf low)
  | starts : NextQuery s none (some (.s2 s.ovf)) s.lastNow
  | outside {q : Option NowLabel} {v : Time} (hq : q = none ∨ q = some .s1) : NextQuery s none q v

/-- The micro-step `m` of an operation that stands at `q`, with its labels held as `into`, moves the query on; where it returns
the query is over. -/
def Micro.AsksOf {ℓ α : Type} (s : State) (q : Option NowLabel) (into : ℓ → Label) : Micro ℓ α → Prop :=
  Micro.Sat (fun l u => NextQuery s q (into l).query u.lastNow) (fun _ u => NextQuery s q none u.lastNow)
    (fun _ u => u = s)

section

variable {s : State} {q : Option NowLabel}

/-- Where a query is over the next one may begin. -/
theorem NextQuery.begins {v : Time} (h : NextQuery s q none v) : NextQuery s q (some .s1) v := by
  cases h with
  | returns _ => exact .returns (.inr rfl)
  | outside _ => exact .outside (.inr rfl)

/-- The last label of a query: a retry, or the time (40_clock.md R106). -/
theorem NextQuery.of_s3 {a : Word} {low : Ticks} {q' : Option NowLabel} {v : Time}
    (h : NextQuery s (some (.s3 a low)) q' v) :
    (a ≠ s.ovf ∧ q' = some .s1 ∧ v = s.lastNow) ∨ (a = s.ovf ∧ v = time a low) := by
  cases h with
  | retry h => exact .inl ⟨h, rfl, rfl⟩
  | returns _ => exact .inr ⟨rfl, rfl⟩

/-! ## The operations inside the commands -/

theorem Micro.AsksOf.call {ℓ μ α β : Type} {m : Micro ℓ α} {into : ℓ → μ} {k : α → State → Micro μ β} {outer : μ → Label}
    (h : m.AsksOf s q fun l => outer (into l))
    (hk : ∀ v u, NextQuery s q none u.lastNow → (k v u).AsksOf s q outer) : (m.call into k).AsksOf s q outer :=
  Micro.Sat.call h (fun _ _ h => h) hk fun _ _ h => h

/-- An operation that asks no time and raises no fault stays outside a query. -/
theorem Micro.AsksOf.of_quiet {ℓ α : Type} {m : Micro ℓ α} {into : ℓ → Label} {g : ℓ → State → Prop}
    {r : α → State → Prop} (hm : m.Sat g r fun _ _ => False) (hl : ∀ l, (into l).query = none) :
    m.AsksOf s none into := by
  cases m with
  | goto l u => exact .outside (.inl (hl l))
  | ret v u => exact .outside (.inl rfl)
  | fault c u => exact hm.elim

theorem nowStep_asksOf {into : NowLabel → Label} (hl : ∀ l, (into l).query = some l) (l : NowLabel) :
    (nowStep l s).AsksOf s (some l) into := by
  cases l with
  | s1 => simpa [nowStep, Micro.AsksOf, Micro.Sat, hl] using NextQuery.tally
  | s2 a => simpa [nowStep, Micro.AsksOf, Micro.Sat, hl] using NextQuery.counter a
  | s3 a low =>
    simp only [nowStep, recordNow]
    split
    · rename_i h
      subst h
      split
      · rfl
      · exact .returns (.inl rfl)
    · rename_i h
      simpa [Micro.AsksOf, Micro.Sat, hl] using NextQuery.retry h

/-- The query of an arm's label (41_timer.md R143). -/
def ArmLabel.query : ArmLabel → Option NowLabel
  | .now l => some l
  | _ => none

theorem Label.query_tmrStart (l : ArmLabel) : (Label.tmrStart l).query = l.query := by cases l <;> rfl
theorem Label.query_taskSched (l : ArmLabel) : (Label.taskSched l).query = l.query := by cases l <;> rfl
theorem SleepLabel.query_arm (t : Ticks) (l : ArmLabel) : (SleepLabel.arm t l).query = l.query := by cases l <;> rfl

theorem armStep_asksOf {into : ArmLabel → Label} (hl : ∀ l, (into l).query = l.query) (ch : ChIx) (d : Ticks)
    (l : ArmLabel) : (armStep ch d l s).AsksOf s l.query into := by
  cases l with
  | now l =>
    refine (nowStep_asksOf (fun l => hl (.now l)) l).call fun v u h => ?_
    simpa [Micro.AsksOf, Micro.Sat, hl, ArmLabel.query] using h
  | compare t0 => exact .outside (.inl (hl _))
  | commit t0 => exact .outside (.inl rfl)

theorem startCheck_asksOf {into : ArmLabel → Label} (hl : ∀ l, (into l).query = l.query) (j : PoolIx) (cb : BitVec 2) :
    (startCheck j cb s).AsksOf s none into := by
  unfold startCheck
  split
  · split
    · rfl
    · exact .outside (.inl rfl)
  · exact .outside (.inr (hl _))

theorem schedCheck_asksOf (id : BitVec 2) : (schedCheck id s).AsksOf s none .taskSched := by
  unfold schedCheck
  split
  · split
    · rfl
    · exact .outside (.inl rfl)
  · exact .outside (.inr rfl)

theorem saneCheck_asksOf {ℓ : Type} {into : ℓ → Label} (t : Ticks) : (saneCheck t s : Micro ℓ Ticks).AsksOf s none into := by
  unfold saneCheck
  split
  · exact .outside (.inl rfl)
  · split
    · rfl
    · exact .outside (.inl rfl)

theorem waitStep_asksOf {into : WaitLabel → Label} (hl : ∀ l, (into l).query = none) (l : WaitLabel) :
    (waitStep l s).AsksOf s none into :=
  .of_quiet (waitStep_sat l s) hl

theorem stopStep_asksOf {into : StopLabel → Label} (hl : ∀ l, (into l).query = none) (j : PoolIx) (l : StopLabel) :
    (stopStep j l s).AsksOf s none into :=
  .of_quiet (stopStep_sat j l s) hl

/-- A micro-step of the body of SLP.TIMEOUT (42_sleep.md R187). -/
theorem sleepStep_asksOf {into : SleepLabel → Label} (hl : ∀ l, (into l).query = l.query) (t : Ticks) (l : SleepLabel) :
    (sleepStep t l s).AsksOf s l.query into := by
  have waits : ∀ u : State, ∀ {q}, NextQuery s q none u.lastNow →
      (Micro.goto (.wait .s1) u : Micro SleepLabel Unit).AsksOf s q into := fun u q h => by
    simpa [Micro.AsksOf, Micro.Sat, hl, SleepLabel.query] using h
  cases l with
  | clear => exact .outside (.inl (hl _))
  | sane => exact (saneCheck_asksOf t).call fun _ _ _ => .outside (.inl (hl _))
  | start t =>
    exact (startCheck_asksOf (fun l => (hl _).trans (SleepLabel.query_arm t l)) .t0 0).call fun _ u h => waits u h
  | arm t l =>
    rw [SleepLabel.query_arm]
    exact (armStep_asksOf (fun l => (hl _).trans (SleepLabel.query_arm t l)) .ch0 t l).call fun _ u h => waits u h
  | wait l => exact (waitStep_asksOf (fun _ => hl _) l).call fun _ _ _ => .outside (.inl (hl _))
  | stop l => exact (stopStep_asksOf (fun _ => hl _) .t0 l).call fun _ _ _ => .outside (.inl rfl)

/-- A micro-step of the body of SLP.DURATION (42_sleep.md R189). -/
theorem durationStep_asksOf {into : DurationLabel → Label} (hl : ∀ l, (into l).query = l.query) (d : Ticks)
    (l : DurationLabel) : (durationStep d l s).AsksOf s l.query into := by
  cases l with
  | begin l =>
    refine (nowStep_asksOf (fun _ => hl _) l).call fun v u h => ?_
    simpa [Micro.AsksOf, Micro.Sat, hl, DurationLabel.query] using h.begins
  | again start l =>
    refine (nowStep_asksOf (fun _ => hl _) l).call fun v u h => ?_
    simpa [Micro.AsksOf, Micro.Sat, hl, DurationLabel.query, SleepLabel.query] using h
  | sleep start t l =>
    refine (sleepStep_asksOf (fun _ => hl _) t l).call fun v u h => ?_
    simpa [Micro.AsksOf, Micro.Sat, hl, DurationLabel.query] using h
  | test start =>
    simp only [durationStep]
    split
    · exact .outside (.inl rfl)
    · exact .outside (.inr (hl _))

theorem foregroundOnly_asksOf {ℓ α : Type} {m : Micro ℓ α} {into : ℓ → Label} (h : m.AsksOf s q into) :
    (foregroundOnly s m).AsksOf s q into := by
  unfold foregroundOnly
  split
  · rfl
  · exact h

theorem withPoolIx_asksOf {ℓ α : Type} {idx : BitVec 2} {m : PoolIx → Micro ℓ α} {into : ℓ → Label}
    (h : ∀ j, (m j).AsksOf s q into) : (withPoolIx idx s m).AsksOf s q into := by
  unfold withPoolIx
  split
  · exact h _
  · rfl

end

/-! ## The commands -/

/-- The label `l` is one of the command `i`, which asks for the time (40_clock.md R106). -/
inductive AskedBy : Instr → Label → Prop
  | clkNow (l : NowLabel) : AskedBy .clkNow (.clkNow l)
  | tmrStart (idx cb : BitVec 2) (d : Ticks) (l : ArmLabel) : AskedBy (.tmrStart idx cb d) (.tmrStart l)
  | taskSched (id : BitVec 2) (d : Ticks) (l : ArmLabel) : AskedBy (.taskSched id d) (.taskSched l)
  | slpTimeout (t : Ticks) (l : SleepLabel) : AskedBy (.slpTimeout t) (.slpTimeout l)
  | slpDuration (d : Ticks) (l : DurationLabel) : AskedBy (.slpDuration d) (.slpDuration l)
  | hfStartDelay (l : DurationLabel) : AskedBy .hfStartDelay (.hfStartDelay l)

/-- A label of a command is outside a query, or the command asks for the time. -/
theorem Label.query_eq_none_or_askedBy {l : Label} {i : Instr} (hl : l.belongsTo i = true) :
    (l.query = none ∧ asksTime i = false) ∨ AskedBy i l := by
  unfold Label.belongsTo at hl
  split at hl
  case h_1 => exact .inr (.clkNow _)
  case h_3 => exact .inr (.tmrStart _ _ _ _)
  case h_5 => exact .inr (.taskSched _ _ _)
  case h_6 => exact .inr (.slpTimeout _ _)
  case h_7 => exact .inr (.slpDuration _ _)
  case h_10 => exact .inr (.hfStartDelay _)
  case h_12 => cases hl
  all_goals exact .inl ⟨rfl, rfl⟩

theorem Label.askedBy {l : Label} {i : Instr} (hi : asksTime i = true) (hl : l.belongsTo i = true) : AskedBy i l :=
  (Label.query_eq_none_or_askedBy hl).resolve_left fun ⟨_, h⟩ => Bool.noConfusion (hi.symm.trans h)

theorem Label.query_eq_none {l : Label} {i : Instr} (hi : asksTime i = false) (hl : l.belongsTo i = true) :
    l.query = none := by
  obtain ⟨h, -⟩ | h := Label.query_eq_none_or_askedBy hl
  · exact h
  · cases h <;> cases hi

/-- The label of `NOW` at which command `i` of the executing list stands; a label of another command counts as none. -/
def State.asks (s : State) (i : Instr) : Option NowLabel :=
  match s.labelOf i with
  | some l => if l.belongsTo i then l.query else none
  | none => none

section

variable {s t u : State} {i : Instr} {l : Label}

theorem State.asks_of_labelOf (h : s.labelOf i = some l) (hl : l.belongsTo i = true) : s.asks i = l.query := by
  simp [State.asks, h, hl]

theorem State.asks_eq_none (h : ∀ l, s.labelOf i = some l → l.belongsTo i = true → l.query = none) : s.asks i = none := by
  unfold State.asks
  split
  · split
    · exact h _ ‹_› ‹_›
    · rfl
  · rfl

theorem State.frame_fg (ha : s.isrActive = false) : s.frame = s.fgFrame := by simp [State.frame, State.ctx, ha]

/-- In the foreground the query of the command is that of `FG`. -/
theorem State.query_of_asks {l : NowLabel} (ha : s.isrActive = false) (h : s.asks i = some l) : s.query = some l := by
  unfold State.asks at h
  split at h
  · rename_i b hb
    have hf := (State.frame_fg ha).symm.trans (State.frame_of_labelOf hb)
    split at h
    · simpa [State.query, hf] using h
    · cases h
  · cases h

theorem State.asks_of_fgFrame {f : CmdFrame} (ha : s.isrActive = false) (hf : s.fgFrame = some f)
    (hl : f.label.belongsTo f.cmd = true) : s.asks f.cmd = f.label.query :=
  State.asks_of_labelOf (s.labelOf_of_at ((State.frame_fg ha).trans hf)) hl

theorem State.fgFrame_hold (ha : u.isrActive = false) (f : CmdFrame) : (u.hold f).fgFrame = some f := by
  rw [State.hold_fg u ha]

theorem State.query_hold (ha : u.isrActive = false) (f : CmdFrame) : (u.hold f).query = f.label.query := by
  rw [State.query, State.fgFrame_hold ha]

theorem State.fgFrame_complete (ha : u.isrActive = false) : u.complete.fgFrame = none := by rw [State.complete_fg u ha]

theorem State.query_complete (ha : u.isrActive = false) : u.complete.query = none := by
  rw [State.query, State.fgFrame_complete ha]

/-- The micro-step of `i` moves its query on, or raises a fault. -/
def MovesQuery (i : Instr) (s t : State) : Prop :=
  NextQuery s (s.asks i) t.query t.lastNow ∨ ∃ c, t = s.raiseFault c

theorem Micro.AsksOf.settle {ℓ α : Type} {m : Micro ℓ α} {into : ℓ → Label} {result : α → State → State}
    (h : m.AsksOf s (s.asks i) into) (hr : ∀ v u, (result v u).lastNow = u.lastNow)
    (ht : (m.settle i into result).isrActive = false) : MovesQuery i s (m.settle i into result) := by
  cases m with
  | goto l u =>
    have hu : u.isrActive = false := by simpa [Micro.settle] using ht
    have h : NextQuery s (s.asks i) (into l).query u.lastNow := h
    left
    simpa [Micro.settle, State.query_hold hu] using h
  | ret v u =>
    have hu : (result v u).isrActive = false := by simpa [Micro.settle] using ht
    have h : NextQuery s (s.asks i) none u.lastNow := h
    left
    simpa [Micro.settle, State.query_complete hu, hr] using h
  | fault c u =>
    obtain rfl : u = s := h
    exact .inr ⟨c, rfl⟩

variable (ht : t.isrActive = false)
include ht

theorem clkNow_movesQuery (h : execClkNow s = .next t) : MovesQuery .clkNow s t := by
  cases h
  refine Micro.AsksOf.settle ?_ (fun _ _ => rfl) ht
  split
  · rename_i l hl
    rw [State.asks_of_labelOf hl rfl]
    exact nowStep_asksOf (fun _ => rfl) l
  · rename_i hother
    rw [State.asks_eq_none fun l hl hb => by cases Label.askedBy rfl hb; exact absurd hl (hother _)]
    exact .starts

theorem tmrStart_movesQuery {idx cb : BitVec 2} {d : Ticks} (h : execTmrStart idx cb d s = .next t) :
    MovesQuery (.tmrStart idx cb d) s t := by
  cases h
  refine Micro.AsksOf.settle (withPoolIx_asksOf fun j => ?_) (fun _ _ => rfl) ht
  split
  · rename_i l hl
    rw [State.asks_of_labelOf hl rfl, Label.query_tmrStart]
    exact armStep_asksOf Label.query_tmrStart _ d l
  · rename_i hother
    rw [State.asks_eq_none fun l hl hb => by cases Label.askedBy rfl hb; exact absurd hl (hother _)]
    exact startCheck_asksOf Label.query_tmrStart j cb

theorem taskSched_movesQuery {id : BitVec 2} {d : Ticks} (h : execTaskSched id d s = .next t) :
    MovesQuery (.taskSched id d) s t := by
  cases h
  refine Micro.AsksOf.settle ?_ (fun _ _ => rfl) ht
  split
  · rename_i l hl
    rw [State.asks_of_labelOf hl rfl, Label.query_taskSched]
    exact armStep_asksOf Label.query_taskSched _ d l
  · rename_i hother
    rw [State.asks_eq_none fun l hl hb => by cases Label.askedBy rfl hb; exact absurd hl (hother _)]
    exact schedCheck_asksOf id

theorem slpTimeout_movesQuery {d : Ticks} (h : execSlpTimeout d s = .next t) : MovesQuery (.slpTimeout d) s t := by
  cases h
  refine Micro.AsksOf.settle (foregroundOnly_asksOf ?_) (fun _ _ => rfl) ht
  split
  · rename_i l hl
    rw [State.asks_of_labelOf hl rfl]
    exact sleepStep_asksOf (fun _ => rfl) d l
  · rename_i hother
    rw [State.asks_eq_none fun l hl hb => by cases Label.askedBy rfl hb; exact absurd hl (hother _)]
    exact sleepStep_asksOf (fun _ => rfl) d .clear

theorem slpDuration_movesQuery {d : Ticks} (h : execSlpDuration d s = .next t) : MovesQuery (.slpDuration d) s t := by
  cases h
  refine Micro.AsksOf.settle (foregroundOnly_asksOf ?_) (fun _ _ => rfl) ht
  split
  · rename_i l hl
    rw [State.asks_of_labelOf hl rfl]
    exact durationStep_asksOf (fun _ => rfl) d l
  · rename_i hother
    rw [State.asks_eq_none fun l hl hb => by cases Label.askedBy rfl hb; exact absurd hl (hother _)]
    exact .outside (.inr rfl)

theorem hfStartDelay_movesQuery (h : execHfStartDelay s = .next t) : MovesQuery .hfStartDelay s t := by
  cases h
  refine Micro.AsksOf.settle (foregroundOnly_asksOf ?_) (fun _ _ => rfl) ht
  split
  · rename_i l hl
    rw [State.asks_of_labelOf hl rfl]
    exact durationStep_asksOf (fun _ => rfl) _ l
  · rename_i hother
    rw [State.asks_eq_none fun l hl hb => by cases Label.askedBy rfl hb; exact absurd hl (hother _)]
    exact .outside (.inr rfl)

/-- A command that asks no time stays outside a query, wherever its micro-step leads. -/
theorem movesQuery_of_not_asksTime (hi : asksTime i = false) (h : exec i s = .next t) : MovesQuery i s t := by
  rw [MovesQuery, State.asks_eq_none fun l _ hl => Label.query_eq_none hi hl]
  cases exec_microStep h with
  | @held u l _ hl _ =>
    have hu : u.isrActive = false := by simpa using ht
    exact .inl (.outside (.inl ((State.query_hold hu _).trans (Label.query_eq_none hi hl))))
  | @done u _ _ =>
    have hu : u.isrActive = false := by simpa using ht
    exact .inl (.outside (.inl (State.query_complete hu)))
  | fault c _ => exact .inr ⟨c, rfl⟩

omit ht in
/-- What a foreground micro-step of any command does to its time query (40_clock.md R106, R108). -/
theorem exec_movesQuery (ha : s.isrActive = false) (h : exec i s = .next t) : MovesQuery i s t := by
  have ht : t.isrActive = false := by
    obtain ⟨⟨-, -, -, hactive, -⟩, -⟩ := commandFrames i s t h
    exact hactive.trans ha
  cases hi : asksTime i with
  | false => exact movesQuery_of_not_asksTime ht hi h
  | true =>
    obtain rfl | ⟨idx, cb, d, rfl⟩ | ⟨id, d, rfl⟩ | hs := asksTime_cases hi
    · exact clkNow_movesQuery ht h
    · exact tmrStart_movesQuery ht h
    · exact taskSched_movesQuery ht h
    · obtain rfl | ⟨d, rfl⟩ | ⟨d, rfl⟩ := eq_of_runsSleepBody hs
      · exact hfStartDelay_movesQuery ht h
      · exact slpTimeout_movesQuery ht h
      · exact slpDuration_movesQuery ht h

end

/-! ## The tally and the counter go on -/

/-- A wrap of the counter is still to be counted (40_clock.md R101, R104). -/
def State.WrapPending (s : State) : Prop := s.evtOvf = true ∧ s.evtOvfClrPend = false

/-- `t` has the tally, the counter and the overflow event of `s`. -/
def State.SameClock (s t : State) : Prop :=
  t.ovf = s.ovf ∧ t.counter = s.counter ∧ t.evtOvf = s.evtOvf ∧ t.evtOvfClrPend = s.evtOvfClrPend

/-- From `s` to `t` the clock goes on: under one tally the counter does not fall, but for a wrap, which stays pending until the
tally counts it (40_clock.md R101, R104). -/
def State.ClockRuns (s t : State) : Prop :=
  (t.ovf = s.ovf ∧ (s.WrapPending → t.WrapPending) ∧ (s.counter ≤ t.counter ∨ t.WrapPending)) ∨ t.ovf = s.ovf + 1

/-- At label `q` of a time query what has been read is not ahead of the clock of `s` (40_clock.md R116). -/
def State.QueryFits (s : State) : Option NowLabel → Prop
  | some (.s2 a) => a.toNat ≤ s.ovf.toNat
  | some (.s3 a low) => a.toNat ≤ s.ovf.toNat ∧ (a = s.ovf → low ≤ s.counter ∨ s.WrapPending)
  | _ => True

section

variable {s t u : State}

theorem State.nowFits_iff : s.nowFits = true ↔ s.QueryFits s.query := by
  unfold State.nowFits State.QueryFits
  cases s.query with
  | none => simp
  | some l => cases l <;> simp [State.WrapPending, imp_iff_not_or, or_assoc]

theorem State.SameClock.clockRuns (h : s.SameClock t) : s.ClockRuns t := by
  obtain ⟨hovf, hcounter, hevt, hpend⟩ := h
  exact .inl ⟨hovf, by simp [State.WrapPending, hevt, hpend], .inl (by simp [hcounter])⟩

/-- A query stays untorn while the clock goes on and the tally does not wrap (40_clock.md R116). -/
theorem State.QueryFits.of_clockRuns {q : Option NowLabel} (h : s.QueryFits q) (hr : s.ClockRuns t)
    (hle : s.ovf.toNat ≤ t.ovf.toNat) : t.QueryFits q := by
  unfold State.QueryFits at h ⊢
  split at h
  · exact h.trans hle
  · rename_i a low
    obtain ⟨ha, hlow⟩ := h
    refine ⟨ha.trans hle, fun hat => ?_⟩
    obtain ⟨hovf, hkept, hcounter⟩ | hovf := hr
    · obtain hl | hp := hlow (hat.trans hovf)
      · exact hcounter.imp (BitVec.le_trans hl) id
      · exact .inr (hkept hp)
    · subst hat
      have hs := s.ovf.isLt
      have hadd : t.ovf.toNat = (s.ovf.toNat + 1) % 2 ^ 32 := by rw [hovf]; exact BitVec.toNat_add s.ovf 1
      omega
  · trivial

/-- What a query has read itself is not ahead of the clock (40_clock.md R106). -/
theorem NextQuery.queryFits {q q' : Option NowLabel} {v : Time} (h : NextQuery s q q' v) (hs : s.QueryFits q) :
    s.QueryFits q' := by
  cases h with
  | tally => exact le_rfl
  | starts => exact le_rfl
  | counter a => exact ⟨hs, fun _ => .inl (BitVec.le_refl _)⟩
  | retry _ => trivial
  | returns hq => obtain rfl | rfl := hq <;> trivial
  | outside hq => obtain rfl | rfl := hq <;> trivial

/-! ## What each step does to the clock -/

/-- No command but CLK.START and CLK.RESET0 re-bases the clock (40_clock.md R105, R109). -/
theorem exec_sameClock {i : Instr} (h : exec i s = .next t) (hi : ¬ (i = .clkStart ∨ i = .clkReset0)) :
    s.SameClock t := by
  obtain ⟨u, v, he, rfl⟩ := exec_effect h
  obtain ⟨-, hevt, hpend, -⟩ := he.clock_eq fun hc => hi (.inl hc)
  exact ⟨he.ovf_eq_or.resolve_right fun ⟨_, hc⟩ => hi hc, he.counter_eq_or.resolve_right fun ⟨_, hc⟩ => hi (.inl hc),
    hevt, hpend⟩

/-- The handler counts a pending wrap in the step that asks for the clear (60_exceptions.md R256, 40_clock.md R104). -/
theorem State.clockRuns_countOverflow : s.ClockRuns s.countOverflow := by
  unfold State.countOverflow
  split
  · exact .inr rfl
  · exact State.SameClock.clockRuns ⟨rfl, rfl, rfl, rfl⟩

theorem HandlerEffect.clockRuns {f : IsrFrame} (h : HandlerEffect f s u) : s.ClockRuns u := by
  cases h with
  | overflow _ => exact State.clockRuns_countOverflow
  | _ => exact State.SameClock.clockRuns (by simp [State.SameClock])

theorem HandlerMicro.clockRuns {f : IsrFrame} (h : HandlerMicro f s t) : s.ClockRuns t := by
  cases h with
  | goes g l he _ => exact he.clockRuns
  | invokes l id he => exact he.clockRuns
  | stays => exact State.SameClock.clockRuns ⟨rfl, rfl, rfl, rfl⟩
  | fault c he _ => simpa [State.ClockRuns, State.WrapPending] using he.clockRuns
  | exits _ => exact State.SameClock.clockRuns ⟨rfl, rfl, rfl, rfl⟩

/-- A tick moves the counter up, or wraps it and sets the overflow event (40_clock.md R100, R101). -/
theorem State.clockRuns_tick (d : Draws) : s.ClockRuns (s.tick d) := by
  left
  by_cases hc : s.counter + 1 = 0
  · have hwrap : (s.tick d).WrapPending := by simp only [State.WrapPending, State.tick, if_pos hc, and_self]
    exact ⟨rfl, fun _ => hwrap, .inr hwrap⟩
  · refine ⟨rfl, ?_, .inl ?_⟩
    · simp only [State.WrapPending, State.tick, if_neg hc, imp_self]
    · change s.counter ≤ s.counter + 1
      bv_omega

/-- A cleared event was counted before (40_clock.md R103). -/
theorem clockRuns_settleStep : s.ClockRuns (settleStep s) := by
  unfold settleStep
  split
  · rename_i hp
    exact .inl ⟨rfl, fun ⟨_, hn⟩ => by simp [hp] at hn, .inl (BitVec.le_refl _)⟩
  · exact State.SameClock.clockRuns ⟨rfl, rfl, rfl, rfl⟩

theorem clockRuns_isrStep {line : Line} (h : isrStep line s = .next t)
    (hcmd : ∀ i, s.fault = false → s.isrActive = true → s.listCommand = some i → ¬ (i = .clkStart ∨ i = .clkReset0)) :
    s.ClockRuns t := by
  obtain rfl | ⟨-, -, -, rfl⟩ | ⟨hf, ha, f, hfr, ⟨-, rfl⟩ | ⟨l, rest, hl, hlist⟩⟩ := isrStep_cases h
  · exact State.SameClock.clockRuns ⟨rfl, rfl, rfl, rfl⟩
  · exact State.SameClock.clockRuns ⟨rfl, rfl, rfl, rfl⟩
  · exact (handlerStep_micro f s).clockRuns
  refine State.SameClock.clockRuns ?_
  obtain ⟨c, hc, h⟩ | ⟨-, -, rfl⟩ | ⟨hc, w, hw, ⟨i, hi, h⟩ | ⟨e, -, rfl⟩⟩ := hlist
  · exact exec_sameClock h (hcmd _ hf ha (State.listCommand_of_frame hfr hl hc))
  · exact ⟨rfl, rfl, rfl, rfl⟩
  · exact exec_sameClock h (hcmd _ hf ha (State.listCommand_of_word hfr hl hc hw hi))
  · simp [State.SameClock]

theorem clockRuns_moveStep {m : Move} (hfg : m ≠ .fg) (hisr : ∀ line, m ≠ .isr line) (h : moveStep m s = .next t) :
    s.ClockRuns t := by
  have same : s.SameClock s := ⟨rfl, rfl, rfl, rfl⟩
  cases m with
  | fg => exact absurd rfl hfg
  | isr line => exact absurd rfl (hisr line)
  | cnt d => cases h; unfold cntStep; split; exacts [State.clockRuns_tick d, same.clockRuns]
  | settle => cases h; exact clockRuns_settleStep
  | osc x => cases h; cases x <;> simp only [oscStep] <;> split <;> exact same.clockRuns
  | envRadio => cases h; exact same.clockRuns
  | envPower => cases h; exact same.clockRuns
  | envWake => cases h; unfold envWakeStep; split <;> exact same.clockRuns
  | hostRead addr n =>
    cases h
    refine State.SameClock.clockRuns ?_
    unfold hostReadStep
    split <;> simp [State.SameClock]
  | hostWrite addr n v =>
    cases h
    refine State.SameClock.clockRuns ?_
    unfold hostWriteStep
    split <;> simp [State.SameClock]

/-! ## No step makes a query torn -/

@[simp] theorem State.nowFits_takeMove : s.takeMove.nowFits = s.nowFits := by unfold State.takeMove; split <;> rfl
@[simp] theorem State.query_raiseFault (c : FaultCode) : (s.raiseFault c).query = s.query := by simp [State.query]

theorem nowFits_of_clockRuns (hs : s.nowFits = true) (hq : t.query = s.query) (hr : s.ClockRuns t)
    (hle : s.ovf.toNat ≤ t.ovf.toNat) : t.nowFits = true := by
  rw [State.nowFits_iff] at hs ⊢
  rw [hq]
  exact hs.of_clockRuns hr hle

theorem nowFits_raiseFault (hs : s.nowFits = true) (c : FaultCode) : (s.raiseFault c).nowFits = true :=
  nowFits_of_clockRuns hs (by simp) (State.SameClock.clockRuns (by simp [State.SameClock])) (by simp)

/-- A foreground micro-step of a command reads what the clock shows, and leaves the clock (40_clock.md R106). -/
theorem nowFits_exec {i : Instr} (hs : s.nowFits = true) (ha : s.isrActive = false) (h : exec i s = .next t)
    (hi : ¬ (i = .clkStart ∨ i = .clkReset0)) : t.nowFits = true := by
  obtain hnext | ⟨c, rfl⟩ := exec_movesQuery ha h
  · have hasks : s.QueryFits (s.asks i) := by
      cases hq : s.asks i with
      | none => trivial
      | some l => exact State.query_of_asks ha hq ▸ State.nowFits_iff.mp hs
    have hclock := exec_sameClock h hi
    have ⟨hovf, _⟩ := hclock
    exact State.nowFits_iff.mpr ((hnext.queryFits hasks).of_clockRuns hclock.clockRuns (by rw [hovf]))
  · exact nowFits_raiseFault hs c

theorem nowFits_fgStep (hs : s.nowFits = true) (h : fgStep s = .next t)
    (hcmd : ∀ i, s.fgMayStep = true → s.fgCommand = some i → ¬ (i = .clkStart ∨ i = .clkReset0)) : t.nowFits = true := by
  obtain rfl | ⟨hm, f, hf, h⟩ | ⟨hm, hf, w, hw, ⟨i, hi, h⟩ | ⟨e, -, rfl⟩⟩ := fgStep_cases h
  · exact hs
  · exact nowFits_exec hs (State.isrActive_of_fgMayStep hm) h (hcmd _ hm (State.fgCommand_of_frame hf))
  · exact nowFits_exec hs (State.isrActive_of_fgMayStep hm) h (hcmd _ hm (State.fgCommand_of_word hf hw hi))
  · exact nowFits_raiseFault hs _

/-- A step that is none of `FG` lets the clock go on, unless its list re-bases it. -/
theorem clockRuns_step (h : step s = .next t) (hfg : s.nextMove ≠ .fg)
    (hcmd : ∀ i, s.nextCommand = some i → ¬ (i = .clkStart ∨ i = .clkReset0)) : s.ClockRuns t := by
  rw [step_eq] at h
  suffices hr : s.takeMove.ClockRuns t by simpa [State.ClockRuns, State.WrapPending] using hr
  by_cases hisr : ∃ line, s.nextMove = .isr line
  · obtain ⟨line, hline⟩ := hisr
    rw [hline] at h
    refine clockRuns_isrStep h fun i hf ha hi => hcmd i ?_
    have hf : s.fault = false := by simpa using hf
    have ha : s.isrActive = true := by simpa using ha
    simpa [State.nextCommand, hline, hf, ha] using hi
  · exact clockRuns_moveStep hfg (fun line hl => hisr ⟨line, hl⟩) h

/-- While no command re-bases the clock and the tally does not wrap, no step makes a query torn (40_clock.md R116). -/
theorem nowFits_step (hs : s.nowFits = true) (h : step s = .next t)
    (hcmd : ∀ i, s.nextCommand = some i → ¬ (i = .clkStart ∨ i = .clkReset0)) (hle : s.ovf.toNat ≤ t.ovf.toNat) :
    t.nowFits = true := by
  by_cases hfg : s.nextMove = .fg
  · rw [step_of_fg hfg] at h
    refine nowFits_fgStep (by simpa using hs) h fun i hm hi => hcmd i ?_
    have hm : s.fgMayStep = true := by simpa using hm
    simpa [State.nextCommand, hfg, hm] using hi
  · obtain ⟨-, hframe⟩ | ⟨hmove, -⟩ := foreground_step h
    · exact nowFits_of_clockRuns hs (by rw [State.query, hframe]; rfl) (clockRuns_step h hfg hcmd) hle
    · exact absurd hmove hfg

/-! ## The time returned -/

/-- With the overflow interrupt armed a pending wrap holds `FG` back (00_scope.md R4, 60_exceptions.md R245). -/
theorem State.not_wrapPending (hm : s.fgMayStep = true) (hi : s.intenOvf = true) : ¬ s.WrapPending := by
  rintro ⟨hevt, -⟩
  have hreq : s.irqReq = true := by simp [State.irqReq, State.requests, State.timerLevel, hevt, hi]
  exact absurd (State.fgMayStep_eq_false_iff.mpr (.inr (.inr (.inl hreq)))) (by simp [hm])

/-- The step of `FG` in a command under execution. -/
theorem step_of_fgFrame {f : CmdFrame} (hmove : s.nextMove = .fg) (hm : s.fgMayStep = true) (hf : s.fgFrame = some f) :
    step s = exec f.cmd s.takeMove := by
  rw [step_of_fg hmove]
  exact fgStep_of_frame (by simpa using hm) (by simpa using hf)

/-- A step of `FG` at the last label of a query that raises no fault: the query starts again where the tally has moved, and else
records the time (40_clock.md R106, R108). -/
theorem step_query {f : CmdFrame} {a : Word} {low : Ticks} (hmove : s.nextMove = .fg) (hm : s.fgMayStep = true)
    (hf : s.fgFrame = some f) (hl : f.label.belongsTo f.cmd = true) (hq : f.label.query = some (.s3 a low))
    (h : step s = .next t) (ht : t.fault = false) :
    (a ≠ s.ovf ∧ t.query = some .s1 ∧ t.lastNow = s.lastNow) ∨ (a = s.ovf ∧ t.lastNow = time a low) := by
  have ha : s.takeMove.isrActive = false := by simpa using State.isrActive_of_fgMayStep hm
  rw [step_of_fgFrame hmove hm hf] at h
  obtain hnext | ⟨c, rfl⟩ := exec_movesQuery ha h
  · rw [State.asks_of_fgFrame ha (by simpa using hf) hl, hq] at hnext
    simpa using hnext.of_s3
  · simp at ht

/-- Where the tally readings agree `NOW` returns the time, or faults (40_clock.md R106, R108). -/
theorem nowStep_agreed (low : Ticks) :
    nowStep (.s3 s.ovf low) s = .ret (time s.ovf low) { s with lastNow := time s.ovf low }
      ∨ nowStep (.s3 s.ovf low) s = .fault .monotonicity s := by
  simp only [nowStep, recordNow, if_true]
  split
  · exact .inr rfl
  · exact .inl rfl

/-- CLK.NOW answers the time it returns (40_clock.md R107). -/
theorem exec_clkNow_agreed {low : Ticks} (ha : s.isrActive = false)
    (hf : s.fgFrame = some ⟨.clkNow, .clkNow (.s3 s.ovf low)⟩) (h : exec .clkNow s = .next t) (ht : t.fault = false) :
    t.fgFrame = none ∧ t.res = (time s.ovf low).setWidth 64 := by
  rw [exec_clkNow_at (State.at_of_frame ((State.frame_fg ha).trans hf))] at h
  obtain hret | hfault := nowStep_agreed (s := s) low
  · rw [hret] at h
    cases h
    refine ⟨State.fgFrame_complete ?_, by simp [Micro.settle]⟩
    exact ha
  · rw [hfault] at h
    cases h
    simp [Micro.settle] at ht

/-- An arm goes on from the low 24 bits of the time (41_timer.md R143). -/
theorem armStep_agreed {i : Instr} {into : ArmLabel → Label} {res : Unit → State → State} {low : Ticks}
    (ha : s.isrActive = false) (ch : ChIx) (d : Ticks)
    (ht : ((armStep ch d (.now (.s3 s.ovf low)) s).settle i into res).fault = false) :
    ((armStep ch d (.now (.s3 s.ovf low)) s).settle i into res).fgFrame = some ⟨i, into (.compare low)⟩ := by
  obtain hret | hfault := nowStep_agreed (s := s) low
  · simp only [armStep, hret, Micro.call, Micro.settle, setWidth_time]
    refine State.fgFrame_hold ?_ _
    exact ha
  · simp [armStep, hfault, Micro.call, Micro.settle] at ht

theorem exec_tmrStart_agreed {idx cb : BitVec 2} {d low : Ticks} (ha : s.isrActive = false)
    (hf : s.fgFrame = some ⟨.tmrStart idx cb d, .tmrStart (.now (.s3 s.ovf low))⟩)
    (hidx : (poolIx? s.cfg.nTimers idx).isSome = true) (h : exec (.tmrStart idx cb d) s = .next t) (ht : t.fault = false) :
    t.fgFrame = some ⟨.tmrStart idx cb d, .tmrStart (.compare low)⟩ := by
  obtain ⟨j, hj⟩ := Option.isSome_iff_exists.mp hidx
  have hl := s.labelOf_of_at ((State.frame_fg ha).trans hf)
  simp only [exec, execTmrStart, withPoolIx, hj, hl] at h
  cases h
  exact armStep_agreed ha _ d ht

theorem exec_taskSched_agreed {id : BitVec 2} {d low : Ticks} (ha : s.isrActive = false)
    (hf : s.fgFrame = some ⟨.taskSched id d, .taskSched (.now (.s3 s.ovf low))⟩)
    (h : exec (.taskSched id d) s = .next t) (ht : t.fault = false) :
    t.fgFrame = some ⟨.taskSched id d, .taskSched (.compare low)⟩ := by
  have hl := s.labelOf_of_at ((State.frame_fg ha).trans hf)
  simp only [exec, execTaskSched, hl] at h
  cases h
  exact armStep_agreed ha _ d ht

theorem ArmLabel.eq_now_of_query {l : ArmLabel} {q : NowLabel} (h : l.query = some q) : l = .now q := by
  cases l with
  | now l => rw [Option.some.inj h]
  | _ => cases h

end

/-- Settles O59: the query is kept untorn by `nowFits_step`; what it returns is `step_query`, with the wrap excluded by
`State.not_wrapPending`. -/
theorem foregroundTimeIsNeverTorn : Obligations.ForegroundTimeIsNeverTorn := by
  refine ⟨fun s t hs h hstart hreset hle => ?kept, fun s t f low hmove hm hinten hs hf hl hq h ht => ?returned,
    fun s t f a low hmove hm hf hl hq hne h ht => ?again⟩
  case kept =>
    refine nowFits_step hs h (fun i hi => ?_) hle
    rintro (rfl | rfl)
    · exact hstart hi
    · exact hreset hi
  case returned =>
    have hlast : t.lastNow = time s.ovf low := by
      obtain ⟨hne, -⟩ | ⟨-, hlast⟩ := step_query hmove hm hf hl hq h ht
      · exact absurd rfl hne
      · exact hlast
    have hlow : low.toNat ≤ s.counter.toNat := by
      have hfits := State.nowFits_iff.mp hs
      rw [State.query, hf] at hfits
      simp only [hq] at hfits
      obtain ⟨-, hlow⟩ := hfits
      exact (hlow rfl).resolve_right (State.not_wrapPending hm hinten)
    have ha : s.takeMove.isrActive = false := by simpa using State.isrActive_of_fgMayStep hm
    rw [step_of_fgFrame hmove hm hf] at h
    have hf : s.takeMove.fgFrame = some f := by simpa using hf
    obtain ⟨cmd, label⟩ := f
    refine ⟨hlast, hlow, by rw [hlast, time_toNat]; omega, ?_, ?_, ?_⟩
    · rintro rfl
      cases Label.askedBy rfl hl with | clkNow l =>
      obtain rfl : l = .s3 s.ovf low := Option.some.inj hq
      simpa using exec_clkNow_agreed ha (by simpa using hf) h ht
    · rintro idx cb d rfl hidx
      cases Label.askedBy rfl hl with | tmrStart _ _ _ l =>
      obtain rfl := ArmLabel.eq_now_of_query ((Label.query_tmrStart l).symm.trans hq)
      exact exec_tmrStart_agreed ha (by simpa using hf) (by simpa using hidx) h ht
    · rintro id d rfl
      cases Label.askedBy rfl hl with | taskSched _ _ l =>
      obtain rfl := ArmLabel.eq_now_of_query ((Label.query_taskSched l).symm.trans hq)
      exact exec_taskSched_agreed ha (by simpa using hf) h ht
  case again =>
    obtain ⟨-, hnext⟩ | ⟨heq, -⟩ := step_query hmove hm hf hl hq h ht
    · exact hnext
    · exact absurd heq hne

end Sys2Proof.Machine
end

section
/-! SUPPORT. The timer commands label by label: the arm, the start, the stop, and the pool's queries. -/

namespace Sys2Proof.Machine

section

variable {s : State} {i : PoolIx} {ch : ChIx} {d t0 : Ticks} {idx cb id : BitVec 2}

/-! ## The arm -/

/-- The uncertainty of a compare write, on naturals (41_timer.md R141). -/
theorem uncertainWrite_eq (p : Params) (v counter : Ticks) :
    uncertainWrite p v counter = decide (1 ≤ (v - counter).toNat ∧ (v - counter).toNat < p.cmpGuard.toNat) := by
  simp [uncertainWrite]

/-- The time query's check where nobody makes it or the time is not behind `LAST_NOW` (40_clock.md R108). -/
theorem recordNow_ok {ℓ : Type} {t : Time} (hok : s.cfg.build = .release ∨ s.lastNow ≤ t) :
    (recordNow t s : Micro ℓ Time) = .ret t { s with lastNow := t } := by
  refine if_neg ?_
  rintro ⟨hdebug, hlt⟩
  obtain hrelease | hle := hok
  · simp [hdebug] at hrelease
  · exact absurd hlt (BitVec.not_lt.mpr hle)

/-- Where the two readings of the tally agree the arm goes on from the counter value read (41_timer.md R143). -/
theorem armStep_query_returns {low : Ticks} (hok : s.cfg.build = .release ∨ s.lastNow ≤ time s.ovf low) :
    armStep ch d (.now (.s3 s.ovf low)) s = .goto (.compare low) { s with lastNow := time s.ovf low } := by
  simp [armStep, nowStep, recordNow_ok hok, Micro.call, setWidth_time]

/-- The commit enables the channel (41_timer.md R143 S5). -/
theorem commitArm_of_ahead (h : (s.counter - t0).toNat + s.cfg.minTimeout.toNat ≤ d.toNat) :
    s.commitArm ch d t0 = s.setChan ch { s.chan ch with evt := false, inten := true } :=
  if_neg (by simpa [forcedExpiry] using h)

/-- The commit that finds too little of the timeout left forces the expiry (41_timer.md R143 S5). -/
theorem commitArm_of_late (h : d.toNat < (s.counter - t0).toNat + s.cfg.minTimeout.toNat) :
    s.commitArm ch d t0
      = { (s.setChan ch { s.chan ch with evt := false, inten := true }).markExpired ch with pendTimerSw := true } :=
  if_pos (by simpa [forcedExpiry] using h)

/-- Settles O15. -/
theorem armMicroSteps : Obligations.ArmMicroSteps := by
  refine ⟨fun _ _ _ => rfl, fun _ _ _ _ => rfl,
    fun ch d s a low => ⟨fun hne => ?retry, fun heq hdebug hlt => ?fault, ?returns⟩, fun ch d s t0 => ?compare,
    fun ch d s t0 => ⟨fun hahead => ?ahead, fun hlate => ⟨?pool, ?task⟩⟩⟩
  case retry => simp [armStep, nowStep, hne, Micro.call]
  case fault => simp [armStep, nowStep, heq, recordNow, hdebug, heq ▸ hlt, Micro.call]
  case returns => rintro rfl; exact armStep_query_returns
  case compare => rw [armStep, State.writeCompare, uncertainWrite_eq]
  case ahead => rw [armStep, commitArm_of_ahead hahead]
  case pool =>
    rintro i rfl
    rw [armStep, commitArm_of_late hlate]
    cases i <;> rfl
  case task =>
    rintro rfl
    rw [armStep, commitArm_of_late hlate]
    rfl

/-- In modular arithmetic the match lies ahead by what is left of the timeout (41_timer.md R144). -/
theorem match_ahead (t0 d : Ticks) {k : Nat} (hk : k ≤ d.toNat) :
    (t0 + d - (t0 + BitVec.ofNat 24 k)).toNat = d.toNat - k := by
  have hd := d.isLt
  have hsub : t0 + d - (t0 + BitVec.ofNat 24 k) = d - BitVec.ofNat 24 k := by
    bv_omega
  have hkn : (BitVec.ofNat 24 k).toNat = k := by
    rw [BitVec.toNat_ofNat]; omega
  rw [hsub, BitVec.toNat_sub_of_le (by rw [BitVec.le_def]; omega), hkn]

/-- Settles O22: the commit leaves at least `a + b + P_MIN_TIMEOUT` of timeout, so by `match_ahead` the match is ahead by at least
`P_MIN_TIMEOUT` at each counter value up to the commit. -/
theorem noArmedTimerIsLost : Obligations.NoArmedTimerIsLost := by
  intro p t0 d a b hmin hguard hspan hnot
  have helapsed : (t0 + BitVec.ofNat 24 (a + b) - t0).toNat = a + b := by
    bv_omega
  have hleft : a + b + p.minTimeout.toNat ≤ d.toNat := by
    simpa only [forcedExpiry, helapsed, decide_eq_false_iff_not, Nat.not_lt] using hnot
  have hahead {k : Nat} (hk : k ≤ a + b) := match_ahead t0 d (k := k) (by omega)
  refine ⟨?certain, fun k hk heq => ?early, ?far, hahead le_rfl⟩
  case certain =>
    rw [uncertainWrite_eq, hahead (by omega), decide_eq_false_iff_not]
    omega
  case early =>
    have h := hahead (k := a + k) (by omega)
    rw [heq, BitVec.sub_self] at h
    simp only [BitVec.toNat_zero] at h
    omega
  case far =>
    rw [hahead le_rfl]
    omega

/-! ## The pool's queries -/

/-- Settles O19. -/
theorem poolQueriesReadTheTimer : Obligations.PoolQueriesReadTheTimer := by
  refine ⟨fun idx => ?started, fun idx => ?expired, fun s idx i hi => ⟨?inUse, ?isExpired⟩, fun s idx hnone => ⟨?bad, ?bad'⟩⟩
  case started => simp [encode, packT_toNat]
  case expired => simp [encode, packT_toNat]
  case inUse => simp [exec, execTmrIsStarted, hi, State.answer, flag64]
  case isExpired => simp [exec, execTmrIsExpired, hi, State.answer, flag64]
  case bad => simp [exec, execTmrIsStarted, hnone]
  case bad' => simp [exec, execTmrIsExpired, hnone]

/-! ## TMR.START -/

theorem withPoolIx_of_some {ℓ α : Type} (h : poolIx? s.cfg.nTimers idx = some i) (m : PoolIx → Micro ℓ α) :
    withPoolIx idx s m = m i := by
  simp [withPoolIx, h]

/-- A timer not in use is taken (41_timer.md R145). -/
theorem startCheck_free (h : (s.timer i).inUse = false) :
    startCheck i cb s = .goto (.now .s1)
      ((s.setTimer i { inUse := true, expired := false, cbId := cb }).setChan i.chan
        { s.chan i.chan with inten := false }) := by
  simp [startCheck, h]

/-- The first micro-step of TMR.START is the check of the start (41_timer.md R145). -/
theorem exec_tmrStart_first (hi : poolIx? s.cfg.nTimers idx = some i) (hidle : s.frame = none) :
    exec (.tmrStart idx cb d) s = .next ((startCheck i cb s).settle (.tmrStart idx cb d) .tmrStart fun _ s => s) := by
  simp [exec, execTmrStart, withPoolIx_of_some hi, s.labelOf_of_idle hidle]

/-- Under a label TMR.START takes the micro-step of its arm there (41_timer.md R145). -/
theorem exec_tmrStart_at {l : ArmLabel} (hi : poolIx? s.cfg.nTimers idx = some i)
    (h : s.frame = some ⟨.tmrStart idx cb d, .tmrStart l⟩) :
    exec (.tmrStart idx cb d) s
      = .next ((armStep i.chan d l s).settle (.tmrStart idx cb d) .tmrStart fun _ s => s) := by
  simp [exec, execTmrStart, withPoolIx_of_some hi, s.labelOf_of_at h]

/-- Settles O16. -/
theorem tmrStartTakesAndArmsItsTimer : Obligations.TmrStartTakesAndArmsItsTimer := by
  refine ⟨fun idx cb d => ?word, fun s idx cb d hnone => ?bad, fun s idx cb d i hi =>
    ⟨fun hidle huse hdebug => ?double, fun hidle huse hrelease => ?ignored, fun hidle hfree => ?taken, fun l h => ?arm,
      fun t0 h hahead => ?commit⟩⟩
  case word => simp [encode, packT_toNat]
  case bad => simp [exec, execTmrStart, withPoolIx_of_none hnone, Micro.settle]
  case double => simp [exec_tmrStart_first hi hidle, startCheck, huse, hdebug, Micro.settle]
  case ignored => simp [exec_tmrStart_first hi hidle, startCheck, huse, hrelease, Micro.settle]
  case taken => rw [exec_tmrStart_first hi hidle, startCheck_free hfree, Micro.settle]
  case arm =>
    rw [exec_tmrStart_at hi (State.frame_of_at h)]
    cases armStep i.chan d l s <;> rfl
  case commit =>
    rw [exec_tmrStart_at hi (State.frame_of_at h), armStep, commitArm_of_ahead hahead, Micro.settle]

/-! ## TASK.SCHED -/

/-- The task timer not in use is taken (41_timer.md R160). -/
theorem schedCheck_free (h : s.taskInUse = false) :
    schedCheck id s = .goto (.now .s1)
      ({ s with taskInUse := true, taskId := id, taskExpired := false }.setChan .ch3
        { s.chan .ch3 with inten := false }) := by
  simp [schedCheck, h]

/-- The first micro-step of TASK.SCHED is the check of the schedule (41_timer.md R160, R161). -/
theorem exec_taskSched_first (hidle : s.frame = none) :
    exec (.taskSched id d) s = .next ((schedCheck id s).settle (.taskSched id d) .taskSched fun _ s => s) := by
  simp [exec, execTaskSched, s.labelOf_of_idle hidle]

/-- Under a label TASK.SCHED takes the micro-step of its arm there (41_timer.md R160). -/
theorem exec_taskSched_at {l : ArmLabel} (h : s.frame = some ⟨.taskSched id d, .taskSched l⟩) :
    exec (.taskSched id d) s = .next ((armStep .ch3 d l s).settle (.taskSched id d) .taskSched fun _ s => s) := by
  simp [exec, execTaskSched, s.labelOf_of_at h]

/-! ## TMR.CANCEL -/

/-- Under a label TMR.CANCEL takes the micro-step of its stop there (41_timer.md R146). -/
theorem exec_tmrCancel_at {l : StopLabel} (hi : poolIx? s.cfg.nTimers idx = some i)
    (h : s.frame = some ⟨.tmrCancel idx, .tmrCancel l⟩) :
    exec (.tmrCancel idx) s = .next ((stopStep i l s).settle (.tmrCancel idx) .tmrCancel fun _ s => s) := by
  simp [exec, execTmrCancel, withPoolIx_of_some hi, s.labelOf_of_at h]

/-- The first micro-step of TMR.CANCEL is the index check alone (41_timer.md R146). -/
theorem exec_tmrCancel_first (hi : poolIx? s.cfg.nTimers idx = some i) (hidle : s.frame = none) :
    exec (.tmrCancel idx) s = .next (s.hold ⟨.tmrCancel idx, .tmrCancel .s1⟩) := by
  simp [exec, execTmrCancel, withPoolIx_of_some hi, s.labelOf_of_idle hidle, Micro.settle]

end

end Sys2Proof.Machine
end

section
/-! SUPPORT. A command with no other agent between its micro-steps. An operation runs through its own labels to its return
(`ReturnsIn`), without the bookkeeping of its list; the command that holds those labels then completes in as many micro-steps
(`execTimes_of_returnsIn`). From it the whole of TMR.START, TMR.CANCEL, TASK.SCHED and SLP.TIMEOUT. -/

namespace Sys2Proof.Machine

/-! ## An operation up to its return -/

/-- From label `l` and state `s` the micro-steps of `op`, with no step of another agent between them, return `v` with state `t` in
the `n`-th one. -/
inductive ReturnsIn {ℓ α : Type} (op : ℓ → State → Micro ℓ α) : Nat → ℓ → State → α → State → Prop
  | ret {l : ℓ} {s : State} {v : α} {t : State} (h : op l s = .ret v t) : ReturnsIn op 1 l s v t
  | goto {n : Nat} {l k : ℓ} {s u : State} {v : α} {t : State} (h : op l s = .goto k u)
      (hk : ReturnsIn op n k u v t) : ReturnsIn op (n + 1) l s v t

section

variable {ℓ μ α β : Type} {op : ℓ → State → Micro ℓ α} {outer : μ → State → Micro μ β} {into : ℓ → μ}
  {k : α → State → Micro μ β} {n m : Nat} {l : ℓ} {l' : μ} {s t u x : State} {v : α} {w : β}

/-- The caller of an operation that returns goes on where it says. -/
theorem ReturnsIn.call (h : ReturnsIn op n l s v t) (hcall : ∀ l s, outer (into l) s = (op l s).call into k)
    (hk : k v t = .goto l' u) (hrest : ReturnsIn outer m l' u w x) : ReturnsIn outer (m + n) (into l) s w x := by
  induction h with
  | ret h => exact .goto (by rw [hcall, h, Micro.call, hk]) hrest
  | goto h _ ih => exact .goto (by rw [hcall, h, Micro.call]) (ih hk)

/-- The caller of an operation that returns may return with it. -/
theorem ReturnsIn.call_ret (h : ReturnsIn op n l s v t) (hcall : ∀ l s, outer (into l) s = (op l s).call into k)
    (hk : k v t = .ret w x) : ReturnsIn outer n (into l) s w x := by
  induction h with
  | ret h => exact .ret (by rw [hcall, h, Micro.call, hk])
  | goto h _ ih => exact .goto (by rw [hcall, h, Micro.call]) (ih hk)

end

/-! ## The frames of the lists -/

/-- `u` with the frames of both sequencers as in `v`: what a `hold` may change. -/
def State.withFrames (u v : State) : State := { u with fgFrame := v.fgFrame, isrFrame := v.isrFrame }

@[simp] theorem State.withFrames_cfg (u v : State) : (u.withFrames v).cfg = u.cfg := rfl
@[simp] theorem State.withFrames_fgWaiting (u v : State) : (u.withFrames v).fgWaiting = u.fgWaiting := rfl
@[simp] theorem State.withFrames_sane (u v : State) : (u.withFrames v).sane = u.sane := rfl
@[simp] theorem State.withFrames_evLatch (u v : State) : (u.withFrames v).evLatch = u.evLatch := rfl
@[simp] theorem State.withFrames_timer (u v : State) (i : PoolIx) : (u.withFrames v).timer i = u.timer i := rfl

/-- The outcome of a micro-step with its state changed. -/
def Micro.mapState {ℓ α : Type} (g : State → State) : Micro ℓ α → Micro ℓ α
  | .goto l s => .goto l (g s)
  | .ret v s => .ret v (g s)
  | .fault c s => .fault c (g s)

section

variable {s t u : State}

theorem State.hold_eq_withFrames (f : CmdFrame) : u.hold f = u.withFrames (u.hold f) := by
  unfold State.hold State.mapTop
  split
  · rfl
  · split
    · split <;> rfl
    · rfl

theorem State.SameSeq.trans (hu : s.SameSeq u) (ht : u.SameSeq t) : s.SameSeq t := by
  simp_all [State.SameSeq]

/-- Two states whose sequencers stand alike hold a frame alike. -/
theorem State.SameSeq.withFrames_hold (h : u.SameSeq t) (hu : u.atCommandStart = true) (f : CmdFrame) :
    t.withFrames (u.hold f) = t.hold f := by
  obtain ⟨-, -, hfg, -, -, hactive, hisr, -⟩ := h
  obtain ha | ⟨ha, g, l, rest, hg, hl⟩ := State.executing_of_atCommandStart hu
  · simp [State.hold_fg u ha, State.hold_fg t (hactive.trans ha), State.withFrames, hisr]
  · simp [State.hold_isr u ha hg hl, State.hold_isr t (hactive.trans ha) (hisr.trans hg) hl, State.withFrames, hfg]

theorem State.SameSeq.atCommandStart (h : s.SameSeq t) (hs : s.atCommandStart = true) : t.atCommandStart = true := by
  obtain ⟨-, -, hfg, -, -, hactive, hisr, -⟩ := h
  simpa [State.atCommandStart, State.frame, State.ctx, State.listStack, hfg, hactive, hisr] using hs

/-- The writes inside the commands leave both sequencers where they stand. -/
theorem writeClosed_sameSeq (s : State) : WriteClosed s.SameSeq where
  lastNow _ _ h := h
  chan _ _ _ h := h
  timer _ _ _ h := h
  task _ _ _ _ h := h
  pend _ h := h
  wait _ _ _ h := h
  wake _ _ _ h := h
  inten _ _ _ h := h
  osc _ x h := by simpa [State.SameSeq] using h

/-- The frame that was held is discarded with the completion (30_encoding.md R82). -/
theorem State.hold_complete (h : s.atCommandStart = true) (f : CmdFrame) : (s.hold f).complete = s.complete :=
  (State.complete_hold h f (s.hold f).lastNow (s.hold f).res).trans (by rw [State.hold_lastNow, State.hold_res])

end

/-! ## From the operation to the command -/

/-- `op` neither reads nor writes the frames of the lists, and leaves both sequencers where they stand. -/
structure FrameFree {ℓ α : Type} (op : ℓ → State → Micro ℓ α) : Prop where
  withFrames : ∀ l u v, op l (u.withFrames v) = (op l u).mapState (·.withFrames v)
  sameSeq : ∀ l s, (op l s).All s.SameSeq

theorem execTimes_succ {i : Instr} {s t : State} (n : Nat) (h : exec i s = .next t) :
    execTimes (n + 1) i s = execTimes n i t := by
  simp [execTimes, h]

/-- A command under execution whose micro-steps are those of `op` completes in the micro-step in which `op` returns. -/
theorem execTimes_of_returnsIn {ℓ : Type} {op : ℓ → State → Micro ℓ Unit} {i : Instr} {into : ℓ → Label} {n : Nat} {l : ℓ}
    {s u t : State} {v : Unit} (hop : FrameFree op)
    (hexec : ∀ l u, u.cfg = s.cfg → u.isrActive = s.isrActive → u.frame = some ⟨i, into l⟩ →
      exec i u = .next ((op l u).settle i into fun _ s => s))
    (hs : s.atCommandStart = true) (hu : s.SameSeq u) (h : ReturnsIn op n l u v t) :
    execTimes n i (u.hold ⟨i, into l⟩) = .next t.complete := by
  have first {l : ℓ} {u : State} (hu : s.SameSeq u) :
      exec i (u.hold ⟨i, into l⟩)
        = .next (((op l u).mapState (·.withFrames (u.hold ⟨i, into l⟩))).settle i into fun _ s => s) := by
    have ⟨hcfg, _, _, _, _, hactive, _⟩ := hu
    rw [hexec l _ (by simpa using hcfg) (by simpa using hactive) (State.frame_hold (hu.atCommandStart hs) _),
      ← hop.withFrames, ← State.hold_eq_withFrames]
  induction h with
  | @ret l u v t h =>
    have ht : u.SameSeq t := by simpa [h, Micro.All, Micro.Sat] using hop.sameSeq l u
    have hx := first (l := l) hu
    rw [h, Micro.mapState, Micro.settle, ht.withFrames_hold (hu.atCommandStart hs),
      State.hold_complete ((hu.trans ht).atCommandStart hs)] at hx
    rw [execTimes_succ 0 hx, execTimes]
  | @goto n l k u t v w h _ ih =>
    have ht : u.SameSeq t := by simpa [h, Micro.All, Micro.Sat] using hop.sameSeq l u
    have hx := first (l := l) hu
    rw [h, Micro.mapState, Micro.settle, ht.withFrames_hold (hu.atCommandStart hs),
      State.hold_hold ((hu.trans ht).atCommandStart hs)] at hx
    rw [execTimes_succ n hx]
    exact ih (hu.trans ht)

/-! ## The operations of the timer commands -/

section

variable {s : State} {j : PoolIx} {ch : ChIx} {d : Ticks}

theorem Micro.mapState_call {ℓ μ α β : Type} (m : Micro ℓ α) {into : ℓ → μ} {k : α → State → Micro μ β} {g : State → State}
    (hk : ∀ v s, k v (g s) = (k v s).mapState g) : (m.mapState g).call into k = (m.call into k).mapState g := by
  cases m with
  | goto l s => rfl
  | ret v s => exact hk v s
  | fault c s => rfl

theorem nowStep_withFrames (l : NowLabel) (u v : State) :
    nowStep l (u.withFrames v) = (nowStep l u).mapState (·.withFrames v) := by
  cases l with
  | s1 => rfl
  | s2 a => rfl
  | s3 a low =>
    simp only [nowStep, recordNow, apply_ite (Micro.mapState (·.withFrames v))]
    rfl

theorem commitArm_withFrames (t0 : Ticks) (u v : State) :
    (u.withFrames v).commitArm ch d t0 = (u.commitArm ch d t0).withFrames v := by
  simp only [State.commitArm, apply_ite (State.withFrames · v)]
  cases ch <;> rfl

theorem frameFree_armStep (ch : ChIx) (d : Ticks) : FrameFree (armStep ch d) where
  withFrames l u v := by
    cases l with
    | now l =>
      simp only [armStep, nowStep_withFrames]
      exact Micro.mapState_call _ fun _ _ => rfl
    | compare t0 => rfl
    | commit t0 => simp only [armStep, commitArm_withFrames, Micro.mapState]
  sameSeq l s := armStep_all (writeClosed_sameSeq s) (.refl s) ch d l

theorem frameFree_stopStep (j : PoolIx) : FrameFree (stopStep j) where
  withFrames l u v := by cases l <;> rfl
  sameSeq l s := stopStep_all (writeClosed_sameSeq s) (.refl s) j l

/-- The state after an arm with no step of another agent in it (41_timer.md R143, R144). -/
def State.armed (s : State) (ch : ChIx) (d : Ticks) : State :=
  ({ s with lastNow := time s.ovf s.counter }.writeCompare ch (s.counter + d)).commitArm ch d s.counter

/-- The arm takes three micro-steps for the time, one for the compare write and one for the commit (41_timer.md R143). -/
theorem armStep_returnsIn (hok : s.cfg.build = .release ∨ s.lastNow ≤ time s.ovf s.counter) :
    ReturnsIn (armStep ch d) 5 (.now .s1) s () (s.armed ch d) :=
  .goto rfl (.goto rfl (.goto (armStep_query_returns hok) (.goto rfl (.ret rfl))))

theorem State.setChan_setChan (s : State) (ch : ChIx) (v w : Channel) : (s.setChan ch v).setChan ch w = s.setChan ch w := by
  cases ch <;> rfl

/-- The channel after such an arm: no tick falls into it, so the match lies `d` ahead of the counter (41_timer.md R141, R144). -/
def State.armedChannel (s : State) (d : Ticks) : Channel :=
  { cc := s.counter + d
    evt := false
    inten := true
    uncertain := decide (1 ≤ d.toNat ∧ d.toNat < s.cfg.cmpGuard.toNat) }

/-- The compare write and the commit's write of the channel at one counter value. -/
theorem State.setChan_writeCompare (s : State) (ch : ChIx) (d : Ticks) :
    (s.writeCompare ch (s.counter + d)).setChan ch
        { (s.writeCompare ch (s.counter + d)).chan ch with evt := false, inten := true } =
      s.setChan ch (s.armedChannel d) := by
  have hahead : s.counter + d - s.counter = d := by bv_omega
  rw [State.writeCompare, uncertainWrite_eq, hahead, State.setChan_setChan, State.chan_setChan_self]
  rfl

theorem State.armed_of_ahead (h : s.cfg.minTimeout.toNat ≤ d.toNat) :
    s.armed ch d = { s with lastNow := time s.ovf s.counter }.setChan ch (s.armedChannel d) := by
  rw [State.armed, commitArm_of_ahead (by simpa [State.writeCompare] using h)]
  exact State.setChan_writeCompare { s with lastNow := time s.ovf s.counter } ch d

theorem State.armed_of_late (h : d.toNat < s.cfg.minTimeout.toNat) :
    s.armed ch d =
      { ({ s with lastNow := time s.ovf s.counter }.setChan ch (s.armedChannel d)).markExpired ch with
        pendTimerSw := true } := by
  rw [State.armed, commitArm_of_late (by simpa [State.writeCompare] using h)]
  exact congrArg (fun u : State => { u.markExpired ch with pendTimerSw := true })
    (State.setChan_writeCompare { s with lastNow := time s.ovf s.counter } ch d)

/-- The three micro-steps of a stop (41_timer.md R147). -/
theorem stopStep_returnsIn :
    ReturnsIn (stopStep j) 3 .s1 s ()
      ((s.setChan j.chan { s.chan j.chan with inten := false, evt := false }).setTimer j
        { s.timer j with inUse := false }) := by
  refine .goto rfl (.goto rfl (.ret ?_))
  simp [stopStep, State.setChan_setChan]

end

/-! ## The whole commands -/

section

variable {s : State} {i : PoolIx} {d : Ticks} {idx cb id : BitVec 2}

theorem State.frame_of_atCommandStart (h : s.atCommandStart = true) : s.frame = none := by
  simp only [State.atCommandStart, Bool.and_eq_true, Option.isNone_iff_eq_none] at h
  obtain ⟨hidle, -⟩ := h
  exact hidle

/-- The pool timer taken by the start and armed (41_timer.md R145, R143). -/
theorem State.armed_taken (s : State) (i : PoolIx) (cb : BitVec 2) (d : Ticks) :
    ((s.setTimer i { inUse := true, expired := false, cbId := cb }).setChan i.chan
        { s.chan i.chan with inten := false }).armed i.chan d =
      ({ s with
          lastNow := time s.ovf s.counter
          pendTimerSw := s.pendTimerSw || decide (d.toNat < s.cfg.minTimeout.toNat) }.setTimer i
            { inUse := true, expired := decide (d.toNat < s.cfg.minTimeout.toNat), cbId := cb }).setChan i.chan
          { cc := s.counter + d
            evt := false
            inten := true
            uncertain := decide (1 ≤ d.toNat ∧ d.toNat < s.cfg.cmpGuard.toNat) } := by
  by_cases hlate : d.toNat < s.cfg.minTimeout.toNat
  · rw [State.armed_of_late (by simpa using hlate)]
    simp only [hlate, decide_true, Bool.or_true]
    cases i <;> rfl
  · rw [State.armed_of_ahead (by simpa using hlate)]
    simp only [hlate, decide_false, Bool.or_false]
    cases i <;> rfl

/-- Settles O17: the first micro-step takes the timer, and the arm completes in the five that follow. -/
theorem tmrStartUninterrupted : Obligations.TmrStartUninterrupted := by
  intro s idx cb d i hi hs hfree hok
  have hfirst := exec_tmrStart_first (cb := cb) (d := d) hi (State.frame_of_atCommandStart hs)
  rw [startCheck_free hfree, Micro.settle] at hfirst
  rw [execTimes_succ 5 hfirst, ← State.armed_taken]
  refine execTimes_of_returnsIn (frameFree_armStep i.chan d) (fun l u hcfg _ hu => ?_) hs ?_ (armStep_returnsIn hok)
  · exact exec_tmrStart_at (by rwa [hcfg]) hu
  · exact .refl s

/-- Settles O18: the stop completes in the three micro-steps after the index check. -/
theorem tmrCancelStopsItsTimer : Obligations.TmrCancelStopsItsTimer := by
  refine ⟨fun idx => ?word, fun s idx hnone => ?bad, fun s idx i hi =>
    ⟨exec_tmrCancel_first hi, fun h => ?disarm, fun h => ?clear, fun h => ?free, fun hs => ?whole⟩⟩
  case word => simp [encode, packT_toNat]
  case bad => simp [exec, execTmrCancel, withPoolIx_of_none hnone, Micro.settle]
  case disarm => rw [exec_tmrCancel_at hi (State.frame_of_at h), stopStep, Micro.settle]
  case clear => rw [exec_tmrCancel_at hi (State.frame_of_at h), stopStep, Micro.settle]
  case free => rw [exec_tmrCancel_at hi (State.frame_of_at h), stopStep, Micro.settle]
  case whole =>
    rw [execTimes_succ 3 (exec_tmrCancel_first hi (State.frame_of_atCommandStart hs))]
    refine execTimes_of_returnsIn (frameFree_stopStep i) (fun l u hcfg _ hu => ?_) hs (.refl s) stopStep_returnsIn
    exact exec_tmrCancel_at (by rwa [hcfg]) hu

/-- The task timer taken by the schedule and armed (41_timer.md R160, R143). -/
theorem State.armed_scheduled (s : State) (id : BitVec 2) (d : Ticks) :
    ({ s with taskInUse := true, taskId := id, taskExpired := false }.setChan .ch3
        { s.chan .ch3 with inten := false }).armed .ch3 d =
      { s with
        lastNow := time s.ovf s.counter
        pendTimerSw := s.pendTimerSw || decide (d.toNat < s.cfg.minTimeout.toNat)
        taskInUse := true
        taskId := id
        taskExpired := decide (d.toNat < s.cfg.minTimeout.toNat) }.setChan .ch3
          { cc := s.counter + d
            evt := false
            inten := true
            uncertain := decide (1 ≤ d.toNat ∧ d.toNat < s.cfg.cmpGuard.toNat) } := by
  by_cases hlate : d.toNat < s.cfg.minTimeout.toNat
  · rw [State.armed_of_late (by simpa using hlate)]
    simp only [hlate, decide_true, Bool.or_true]
    rfl
  · rw [State.armed_of_ahead (by simpa using hlate)]
    simp only [hlate, decide_false, Bool.or_false]
    rfl

/-- Settles O21: the whole is the first micro-step and the five of the arm. -/
theorem taskSchedTakesAndArmsTheTaskTimer : Obligations.TaskSchedTakesAndArmsTheTaskTimer := by
  refine ⟨fun id d => ?word, fun s id d => ⟨fun hidle huse hdebug => ?double, fun hidle huse hrelease => ?ignored,
    fun hidle hfree => ?taken, fun l h => ?arm, fun t0 h hahead => ?commit, fun hs hfree hok => ?whole⟩⟩
  case word => simp [encode, packT_toNat]
  case double => simp [exec_taskSched_first hidle, schedCheck, huse, hdebug, Micro.settle]
  case ignored => simp [exec_taskSched_first hidle, schedCheck, huse, hrelease, Micro.settle]
  case taken => rw [exec_taskSched_first hidle, schedCheck_free hfree, Micro.settle]
  case arm =>
    rw [exec_taskSched_at (State.frame_of_at h)]
    cases armStep .ch3 d l s <;> rfl
  case commit =>
    rw [exec_taskSched_at (State.frame_of_at h), armStep, commitArm_of_ahead hahead, Micro.settle]
  case whole =>
    have hfirst := exec_taskSched_first (id := id) (d := d) (State.frame_of_atCommandStart hs)
    rw [schedCheck_free hfree, Micro.settle] at hfirst
    rw [execTimes_succ 5 hfirst, ← State.armed_scheduled]
    refine execTimes_of_returnsIn (frameFree_armStep .ch3 d) (fun l u _ _ hu => exec_taskSched_at hu) hs ?_
      (armStep_returnsIn hok)
    exact .refl s

/-! ## SLP.TIMEOUT -/

theorem startCheck_withFrames (u v : State) :
    startCheck i cb (u.withFrames v) = (startCheck i cb u).mapState (·.withFrames v) := by
  cases huse : (u.timer i).inUse with
  | false => rw [startCheck_free huse, startCheck_free (s := u.withFrames v) huse]; rfl
  | true =>
    cases hb : u.cfg.build <;> simp [startCheck, huse, hb, Micro.mapState]

theorem saneCheck_withFrames {ℓ : Type} (t : Ticks) (u v : State) :
    (saneCheck t (u.withFrames v) : Micro ℓ Ticks) = (saneCheck t u).mapState (·.withFrames v) := by
  by_cases h : t ≤ u.sane
  · simp [saneCheck, h, Micro.mapState]
  · cases hb : u.cfg.build <;> simp [saneCheck, h, hb, Micro.mapState]

theorem waitStep_withFrames (l : WaitLabel) (u v : State) :
    waitStep l (u.withFrames v) = (waitStep l u).mapState (·.withFrames v) := by
  cases l with
  | s1 =>
    cases hw : u.cfg.waitLatch with
    | latched =>
      cases hl : u.evLatch <;> simp only [waitStep, hw, hl, State.withFrames_cfg, State.withFrames_evLatch] <;> rfl
    | notLatched => simp only [waitStep, hw, State.withFrames_cfg]; rfl
  | s2 => cases hf : u.fgWaiting <;> simp only [waitStep, hf, State.withFrames_fgWaiting] <;> rfl

theorem frameFree_sleepStep (t : Ticks) : FrameFree (sleepStep t) where
  withFrames l u v := by
    cases l with
    | clear => rfl
    | sane => simp only [sleepStep, saneCheck_withFrames]; exact Micro.mapState_call _ fun _ _ => rfl
    | start t => simp only [sleepStep, startCheck_withFrames]; exact Micro.mapState_call _ fun _ _ => rfl
    | arm t l => simp only [sleepStep, (frameFree_armStep .ch0 t).withFrames]; exact Micro.mapState_call _ fun _ _ => rfl
    | wait l => simp only [sleepStep, waitStep_withFrames]; exact Micro.mapState_call _ fun _ _ => rfl
    | stop l => simp only [sleepStep, (frameFree_stopStep .t0).withFrames]; exact Micro.mapState_call _ fun _ _ => rfl
  sameSeq l s := sleepStep_all (writeClosed_sameSeq s) (.refl s) t l

/-- In the foreground the first micro-step of SLP.TIMEOUT clears the wake reason (42_sleep.md R187). -/
theorem exec_slpTimeout_first {t : Ticks} (ha : s.isrActive = false) (hidle : s.frame = none) :
    exec (.slpTimeout t) s = .next (s.clearWake.hold ⟨.slpTimeout t, .slpTimeout .sane⟩) := by
  simp [exec, execSlpTimeout, s.labelOf_of_idle hidle, foregroundOnly_fg ha, sleepStep, Micro.settle]

/-- Under a label SLP.TIMEOUT takes the micro-step of its body there (42_sleep.md R187). -/
theorem exec_slpTimeout_at {t : Ticks} {l : SleepLabel} (ha : s.isrActive = false)
    (h : s.frame = some ⟨.slpTimeout t, .slpTimeout l⟩) :
    exec (.slpTimeout t) s = .next ((sleepStep t l s).settle (.slpTimeout t) .slpTimeout fun _ s => s) := by
  simp [exec, execSlpTimeout, s.labelOf_of_at h, foregroundOnly_fg ha]

/-- Timer 0 taken by the sleep, with the sleep callback (42_sleep.md R187). -/
def State.sleepTaken (s : State) : State :=
  (s.setTimer .t0 { inUse := true, expired := false, cbId := 0 }).setChan (PoolIx.chan .t0)
    { s.chan (PoolIx.chan .t0) with inten := false }

/-- Timer 0 stopped after the wait that consumed the latch (42_sleep.md R186, R187). -/
def State.sleepStopped (s : State) : State :=
  ({ s with evLatch := false }.setChan .ch0 { s.chan .ch0 with inten := false, evt := false }).setTimer .t0
    { s.timer .t0 with inUse := false }

/-- With the latch set the wait returns at once, consuming it (42_sleep.md R186). -/
theorem waitStep_latched (hlatched : s.cfg.waitLatch = .latched) (hlatch : s.evLatch = true) :
    waitStep .s1 s = .ret () { s with evLatch := false } := by
  simp [waitStep, hlatched, hlatch]

theorem State.sleepTaken_armed_cfg (t : Ticks) : (s.sleepTaken.armed .ch0 t).cfg = s.cfg :=
  (congrArg State.cfg (State.armed_taken s .t0 0 t)).trans rfl

theorem State.sleepTaken_armed_evLatch (t : Ticks) : (s.sleepTaken.armed .ch0 t).evLatch = s.evLatch :=
  (congrArg State.evLatch (State.armed_taken s .t0 0 t)).trans rfl

theorem sleepStop_returnsIn (t : Ticks) (u : State) :
    ReturnsIn (sleepStep t) 3 (.stop .s1) { u with evLatch := false } () u.sleepStopped :=
  (stopStep_returnsIn (j := .t0) (s := { u with evLatch := false })).call_ret (into := SleepLabel.stop) (fun _ _ => rfl) rfl

/-- After its clear the body of SLP.TIMEOUT checks and starts in two micro-steps, arms in five, waits in one where the latch is
set, and stops in three (42_sleep.md R187). -/
theorem sleepStep_returnsIn {t : Ticks} (hsane : t ≤ s.sane) (hfree : (s.timer .t0).inUse = false)
    (hlatched : s.cfg.waitLatch = .latched) (hlatch : s.evLatch = true)
    (hok : s.cfg.build = .release ∨ s.lastNow ≤ time s.ovf s.counter) :
    ReturnsIn (sleepStep t) 11 .sane s () (s.sleepTaken.armed .ch0 t).sleepStopped := by
  have sane : sleepStep t .sane s = .goto (.start t) s := by simp [sleepStep, saneCheck, hsane, Micro.call]
  have start : sleepStep t (.start t) s = .goto (.arm t (.now .s1)) s.sleepTaken := by
    rw [sleepStep, startCheck_free hfree, Micro.call, State.sleepTaken]
  have wait : sleepStep t (.wait .s1) (s.sleepTaken.armed .ch0 t)
      = .goto (.stop .s1) { s.sleepTaken.armed .ch0 t with evLatch := false } := by
    rw [sleepStep, waitStep_latched (by rwa [State.sleepTaken_armed_cfg]) (by rwa [State.sleepTaken_armed_evLatch]),
      Micro.call]
  have armed : ReturnsIn (armStep .ch0 t) 5 (.now .s1) s.sleepTaken () (s.sleepTaken.armed .ch0 t) := armStep_returnsIn hok
  have rest := ReturnsIn.goto wait (sleepStop_returnsIn t _)
  exact .goto sane (.goto start (armed.call (into := SleepLabel.arm t) (fun _ _ => rfl) rfl rest))

/-- Settles O27: the clear, and then the body up to its return. -/
theorem slpTimeoutUninterrupted : Obligations.SlpTimeoutUninterrupted := by
  intro s t ha hidle hsane hfree hlatched hlatch hok
  have hs : s.atCommandStart = true := by simp [State.atCommandStart, State.frame_fg ha, hidle, State.ctx, ha]
  have hrun : ReturnsIn (sleepStep t) 11 .sane s.clearWake () (s.clearWake.sleepTaken.armed .ch0 t).sleepStopped :=
    sleepStep_returnsIn hsane hfree hlatched hlatch hok
  have harmed := congrArg State.sleepStopped (State.armed_taken s.clearWake .t0 0 t)
  rw [execTimes_succ 11 (exec_slpTimeout_first ha (State.frame_of_atCommandStart hs)),
    execTimes_of_returnsIn (u := s.clearWake) (frameFree_sleepStep t)
      (fun l u _ hactive hu => exec_slpTimeout_at (hactive.trans ha) hu) hs (.refl s) hrun]
  exact congrArg (fun u : State => Host.Outcome.next u.complete) harmed

end

end Sys2Proof.Machine
end

section
/-! SUPPORT. R150's claim is not kept by every step: a state before the commit of an arm whose timer has been given up. -/

namespace Sys2Proof.Machine

/-- A configuration whose program is `TMR.START 0, 1, 100` alone. -/
def oneStartParams : Params :=
  { nTimers := .two, build := .debug, minTimeout := 2, cmpGuard := 2, waitLatch := .latched, spuriousWake := false
    faultedWake := false, hfDelay := 1, base := 0
    client1 := { onExpiry := [], onOther := [] }
    client2 := { onExpiry := [], onOther := [] }
    client3 := { onExpiry := [], onOther := [] }
    task0 := [], task1 := [], task2 := [], task3 := [], program := [encode (.tmrStart 0 1 100)] }

/-- The clock runs and TMR.START stands before the commit of its arm, but pool timer 0 is not in use: as where a handler has
expired it since the first micro-step (41_timer.md R143, R154; log 18). No channel is enabled. -/
def overtakenStart : State :=
  { State.resetWith oneStartParams with
    lfclk := .running, counterRunning := true, intenOvf := true, poolInit := true
    fgFrame := some { cmd := .tmrStart 0 1 100, label := .tmrStart (.commit 0) }
    sched := [.fg] }

theorem overtakenStart_inv : overtakenStart.Inv :=
  ⟨by decide, by decide, by decide, by decide, by decide, by decide, by decide⟩

/-- Its commit enables channel 0 and leaves the timer as it is. -/
theorem step_overtakenStart :
    step overtakenStart = .next
      ({ overtakenStart with sched := [] }.setChan .ch0 { cc := 0, evt := false, inten := true, uncertain := false }).complete := by
  have hmove : overtakenStart.takeMove = { overtakenStart with sched := [] } := rfl
  rw [step_of_fgFrame (f := ⟨.tmrStart 0 1 100, .tmrStart (.commit 0)⟩) rfl (by decide) rfl, hmove,
    exec_tmrStart_at (i := .t0) (l := .commit 0) (by decide) rfl, armStep, commitArm_of_ahead (by decide), Micro.settle]
  rfl

/-- Refutes O60: the commit of an arm does not test `INUSE` (log 18), so in `overtakenStart` it enables the channel of a timer that is
not in use. -/
theorem not_everyStepKeepsEnabledChannelsInUse : ¬ Obligations.EveryStepKeepsEnabledChannelsInUse := by
  intro h
  have hkept := h _ _ overtakenStart_inv (by decide) step_overtakenStart
  exact absurd hkept (by decide)

end Sys2Proof.Machine
end

section
/-! SUPPORT. The timer handler: the pool scan and the handling of the due indices, the stop of an expired timer, the dispatch of
its callback, and the task part. -/

namespace Sys2Proof.Machine

section

variable {s : State} {f : IsrFrame} {l : HandlerLabel}

/-- While no list stands on its stack the interrupt sequencer takes the next micro-step of its handler
(60_exceptions.md R255). -/
theorem step_of_handlerNext (h : s.handlerNext f l) : step s = .next (handlerStep f s.takeMove) := by
  obtain ⟨⟨line, hmove⟩, hfault, hactive, hframe, -, hstack⟩ := h
  rw [step_of_isr hmove, isrStep]
  simp [hfault, hactive, hframe, hstack]

theorem State.label_of_handlerNext (h : s.handlerNext f l) : f.label = l := by
  obtain ⟨-, -, -, -, hlabel, -⟩ := h
  exact hlabel

theorem State.stack_of_handlerNext (h : s.handlerNext f l) : f.stack = [] := by
  obtain ⟨-, -, -, -, -, hstack⟩ := h
  exact hstack

@[simp] theorem State.takeMove_isDue (j : PoolIx) : s.takeMove.isDue j = s.isDue j := by simp [State.isDue]

@[simp] theorem State.takeMove_dueSet : s.takeMove.dueSet = s.dueSet := by
  simp only [State.dueSet, State.takeMove_cfg]
  congr 1
  funext j
  exact State.takeMove_isDue j

theorem State.isDue_iff {j : PoolIx} : s.isDue j = true ↔ (s.timer j).expired = true ∧ (s.timer j).inUse = true := by
  simp [State.isDue]

theorem scanNext_eq (todo : List PoolIx) : scanNext todo = if todo = [] then .poolCollect else .poolScan todo := by
  cases todo <;> rfl

theorem handleNext_eq (todo : List PoolIx) : handleNext todo = if todo = [] then .secondary else .poolHandle todo := by
  cases todo <;> rfl

/-! ## The pool -/

/-- The scan of one index (41_timer.md R151). -/
theorem step_of_poolScan {j : PoolIx} {todo : List PoolIx} (h : s.handlerNext f (.poolScan (j :: todo))) :
    step s = .next ((s.takeMove.scanIndex j).atHandler f (scanNext todo)) := by
  rw [step_of_handlerNext h, handlerStep, State.label_of_handlerNext h]

/-- The due set is collected into the frame (41_timer.md R152). -/
theorem step_of_poolCollect (h : s.handlerNext f .poolCollect) :
    step s = .next (s.takeMove.atHandler { f with handled := s.dueSet } (handleNext s.dueSet)) := by
  rw [step_of_handlerNext h, handlerStep, State.label_of_handlerNext h, State.takeMove_dueSet]

/-- A due index is rechecked, and then handled or skipped (41_timer.md R152). -/
theorem step_of_poolHandle {j : PoolIx} {todo : List PoolIx} (h : s.handlerNext f (.poolHandle (j :: todo))) :
    step s = .next
      (if s.isDue j then s.takeMove.atHandler f (.expireStop j (s.timer j).cbId .s1 todo)
       else s.takeMove.atHandler f (handleNext todo)) := by
  rw [step_of_handlerNext h, handlerStep, State.label_of_handlerNext h]
  simp only [State.takeMove_isDue, State.timer_takeMove]

/-- Settles O40. -/
theorem poolScanAndHandle : Obligations.PoolScanAndHandle := by
  refine ⟨fun s f j todo h => ⟨fun hevt => ?set, fun hevt => ?clear⟩, fun s f h => ⟨s.dueSet, ?sub, fun j => ?mem, ?collect⟩,
    fun s f j todo h => ⟨fun hexp huse => ?due, fun hnot => ?skipped⟩⟩
  case set =>
    rw [step_of_poolScan h, scanNext_eq, State.scanIndex, if_pos (by simpa using hevt), State.atHandler]
    simp
  case clear =>
    rw [step_of_poolScan h, scanNext_eq, State.scanIndex, if_neg (by simpa using hevt), State.atHandler]
  case sub => exact List.filter_sublist
  case mem => rw [State.dueSet, List.mem_filter, State.isDue_iff]
  case collect =>
    rw [step_of_poolCollect h, handleNext_eq, State.atHandler]
  case due =>
    rw [step_of_poolHandle h, if_pos (State.isDue_iff.mpr ⟨hexp, huse⟩), State.atHandler]
  case skipped =>
    have hdue : ¬ s.isDue j = true := by
      rw [State.isDue_iff]
      rintro ⟨hexp, huse⟩
      simp [hexp, huse] at hnot
    rw [step_of_poolHandle h, if_neg hdue, handleNext_eq, State.atHandler]

/-! ## The expiry of a timer -/

/-- Settles O41: the three labels of `STOP`, each taken by the handler. -/
theorem expirationStopsTheTimer : Obligations.ExpirationStopsTheTimer := by
  intro s f j cb todo
  refine ⟨fun h => ?disarm, fun h => ?clear, fun h => ?free⟩ <;>
    rw [step_of_handlerNext h, handlerStep, State.label_of_handlerNext h]
  case disarm => simp [stopStep, State.atHandler]
  case clear => simp [stopStep, State.atHandler]
  case free => simp [stopStep, State.atHandler]

/-! ## The dispatch -/

/-- A client's callback is recorded and its list pushed (41_timer.md R155, R157). -/
theorem dispatch_client (f : IsrFrame) (next : HandlerLabel) (j : PoolIx) {cb : BitVec 2} (tag : CallbackTag) (s : State)
    (hcb : cb ≠ 0) :
    dispatch f next j cb tag s = (s.emit (.callback j cb tag)).pushList f next (.client cb tag) :=
  if_neg hcb

/-- The sleep callback writes the wake reason of its tag (42_sleep.md R185): the outcome of the arbitrated write is that in the
state before the history entry. -/
theorem dispatch_sleep (f : IsrFrame) (next : HandlerLabel) (j : PoolIx) (tag : CallbackTag) (s : State) :
    dispatch f next j 0 tag s =
      match arbTable s.wake (tagPost tag) with
      | .write => ({ s with wake := (tagPost tag).reason }.emit (.callback j 0 tag)).atHandler f next
      | .keep => (s.emit (.callback j 0 tag)).atHandler f next
      | .fault code => (s.emit (.callback j 0 tag)).raiseFault code := by
  rw [dispatch, if_pos rfl, arbWrite, State.emit_wake]
  cases arbTable s.wake (tagPost tag) <;> rfl

/-- The expiry's dispatch has tag 2 (41_timer.md R154). -/
theorem step_of_expireDispatch {j : PoolIx} {cb : BitVec 2} {todo : List PoolIx}
    (h : s.handlerNext f (.expireDispatch j cb todo)) :
    step s = .next (dispatch f (handleNext todo) j cb .expiry s.takeMove) := by
  rw [step_of_handlerNext h, handlerStep, State.label_of_handlerNext h]

/-- The secondary path (41_timer.md R153). -/
theorem step_of_secondary (h : s.handlerNext f .secondary) :
    step s = .next
      (if .t0 ∉ f.handled ∧ s.timers.p0.inUse = true then dispatch f .taskScan .t0 s.timers.p0.cbId .other s.takeMove
       else s.takeMove.atHandler f .taskScan) := by
  rw [step_of_handlerNext h, handlerStep, State.label_of_handlerNext h]
  simp only [State.timer_takeMove]
  rfl

/-- Settles O42. -/
theorem dispatchRunsTheCallback : Obligations.DispatchRunsTheCallback := by
  refine ⟨fun s f next j cb tag => ⟨fun hcb => ?client, fun hcb => ?sleep⟩, fun s f j cb todo h => ?expiry,
    fun s f h => ⟨fun hnew huse => ?other, fun hnot => ?nothing⟩⟩
  case client => exact dispatch_client f next j tag s hcb
  case sleep =>
    subst hcb
    rw [dispatch_sleep]
    cases tag <;> simp only [arbWrite, tagPost] <;> cases arbTable s.wake _ <;> rfl
  case expiry => rw [step_of_expireDispatch h, handleNext_eq]
  case other => rw [step_of_secondary h, if_pos ⟨hnew, huse⟩]
  case nothing =>
    have hskip : ¬ (.t0 ∉ f.handled ∧ s.timers.p0.inUse = true) := by
      rintro ⟨hnew, huse⟩
      simp [hnew, huse] at hnot
    rw [step_of_secondary h, if_neg hskip, State.atHandler]

/-! ## The task part -/

theorem step_of_taskScan (h : s.handlerNext f .taskScan) : step s = .next (s.takeMove.scanTask.atHandler f .taskHandle) := by
  rw [step_of_handlerNext h, handlerStep, State.label_of_handlerNext h]

theorem step_of_taskHandle (h : s.handlerNext f .taskHandle) : step s = .next (handleTask f s.takeMove) := by
  rw [step_of_handlerNext h, handlerStep, State.label_of_handlerNext h]

/-- Settles O43. -/
theorem taskPart : Obligations.TaskPart := by
  refine ⟨fun s f h => ⟨fun hevt => ?set, fun hevt => ?clear⟩,
    fun s f h => ⟨fun hexp huse => ?due, fun hnot => ?exit⟩, fun s f h => ?release⟩
  case set =>
    rw [step_of_taskScan h, State.scanTask, if_pos (by simpa using hevt), State.atHandler, State.chan_takeMove]
  case clear =>
    rw [step_of_taskScan h, State.scanTask, if_neg (by simpa using hevt), State.atHandler]
  case due =>
    rw [step_of_taskHandle h, handleTask, if_pos (by simp [hexp, huse])]
    simp [State.pushList, State.emit, State.stack_of_handlerNext h]
  case exit =>
    have hskip : ¬ (s.takeMove.taskExpired && s.takeMove.taskInUse) = true := by
      obtain hexp | huse := hnot
      · simp [hexp]
      · simp [huse]
    rw [step_of_taskHandle h, handleTask, if_neg hskip, State.atHandler]
  case release => rw [step_of_handlerNext h, handlerStep, State.label_of_handlerNext h]; rfl

end

end Sys2Proof.Machine
end

section
/-! SUPPORT. The sleep arbiter: the arbitrated write and the commands that post, the queries of the wake reason, and the sleep
commands label by label. The fault of a duration above `SANE` is a run of `durationStep` that goes from label to label (`GoesTo`)
up to the check that faults, so SLP.DURATION and HF.START.DELAY share it. -/

namespace Sys2Proof.Machine

section

variable {s : State} {p : Post} {d t : Ticks} {r : WakeReason}

/-! ## The arbitrated write -/

/-- Settles O23: in each column the table's cell is read off at each old reason. -/
theorem arbitrationTable : Obligations.ArbitrationTable := by
  intro s
  unfold arbWrite
  refine ⟨?expired, ?other, ?message, ?brownout, rfl, rfl⟩
  case expired => cases s.wake <;> rfl
  case other => cases s.wake <;> rfl
  case message => cases s.wake <;> rfl
  case brownout => cases s.wake <;> rfl

/-- A post onto a cell `W` writes its reason and completes (42_sleep.md R181, R183). -/
theorem post_of_write (h : arbTable s.wake p = .write) : s.post p = { s with wake := p.reason }.complete := by
  simp [State.post, arbWrite, h]

/-- A post onto a cell `K` completes with nothing written (42_sleep.md R181, R183). -/
theorem post_of_keep (h : arbTable s.wake p = .keep) : s.post p = s.complete := by
  simp [State.post, arbWrite, h]

/-- Where a message is kept back (42_sleep.md R181, column MR). -/
theorem arbTable_messageReceived (old : WakeReason) :
    arbTable old .messageReceived =
      if old = .messageReceived ∨ old = .hfClockStarted ∨ old = .lfClockStarted then .keep else .write := by
  cases old <;> rfl

/-- Settles O24: the columns MR and BW have the cells `W` and `K` alone. -/
theorem postCommandsWriteTheWakeReason : Obligations.PostCommandsWriteTheWakeReason := by
  refine ⟨by decide, by decide, fun s hkept => ?kept, fun s hmsg hhf hlf => ?message, fun s hcleared => ?brownout,
    fun s hset => ?ignored⟩
  case kept =>
    have hcell : arbTable s.wake .messageReceived = .keep := by rw [arbTable_messageReceived, if_pos hkept]
    exact congrArg Host.Outcome.next (post_of_keep hcell)
  case message =>
    have hcell : arbTable s.wake .messageReceived = .write := by
      rw [arbTable_messageReceived, if_neg (by simp [hmsg, hhf, hlf])]
    exact congrArg Host.Outcome.next (post_of_write hcell)
  case brownout =>
    have hcell : arbTable s.wake .brownoutWarning = .write := if_pos hcleared
    exact congrArg Host.Outcome.next (post_of_write hcell)
  case ignored =>
    have hcell : arbTable s.wake .brownoutWarning = .keep := if_neg hset
    exact congrArg Host.Outcome.next (post_of_keep hcell)

/-! ## The queries of the wake reason, and the ceiling -/

/-- Settles O30. -/
theorem wakeQueriesAndCeiling : Obligations.WakeQueriesAndCeiling := by
  refine ⟨by decide, by decide, fun m => ?word, fun s hexpired => ?timer, fun s hother => ?notTimer, fun s m => rfl,
    fun s => ?read⟩
  case word => simp [encode, packT_toNat]
  case timer => simp [exec, execSlpIsTimer, State.answer, flag64, hexpired]
  case notTimer => simp [exec, execSlpIsTimer, State.answer, flag64, hother]
  case read =>
    rw [exec, execWakeRead, State.answer]
    cases s.wake <;> rfl

/-! ## SLP.TIMEOUT -/

theorem saneCheck_of_le {ℓ : Type} (h : t.toNat ≤ s.sane.toNat) : (saneCheck t s : Micro ℓ Ticks) = .ret t s :=
  if_pos (BitVec.le_def.mpr h)

/-- A timeout above `SANE` faults in `Debug` (42_sleep.md R188). -/
theorem saneCheck_debug {ℓ : Type} (h : s.sane.toNat < t.toNat) (hdebug : s.cfg.build = .debug) :
    (saneCheck t s : Micro ℓ Ticks) = .fault .saneTimeout s := by
  simp [saneCheck, BitVec.le_def, Nat.not_le.mpr h, hdebug]

/-- A timeout above `SANE` is cut to it in `Release` (42_sleep.md R188). -/
theorem saneCheck_release {ℓ : Type} (h : s.sane.toNat < t.toNat) (hrelease : s.cfg.build = .release) :
    (saneCheck t s : Micro ℓ Ticks) = .ret s.sane s := by
  simp [saneCheck, BitVec.le_def, Nat.not_le.mpr h, hrelease]

/-- A double start faults in `Debug` (41_timer.md R145). -/
theorem startCheck_debug {i : PoolIx} {cb : BitVec 2} (huse : (s.timer i).inUse = true) (hdebug : s.cfg.build = .debug) :
    startCheck i cb s = .fault .doubleStart s := by
  simp [startCheck, huse, hdebug]

/-- A double start has no effect in `Release` (41_timer.md R145). -/
theorem startCheck_release {i : PoolIx} {cb : BitVec 2} (huse : (s.timer i).inUse = true)
    (hrelease : s.cfg.build = .release) : startCheck i cb s = .ret () s := by
  simp [startCheck, huse, hrelease]

/-- Settles O26: under each label the micro-step is that of the body of R187 there. -/
theorem slpTimeoutMicroSteps : Obligations.SlpTimeoutMicroSteps := by
  refine ⟨fun t => ?word, fun s t => exec_waiting_isr rfl, fun s t ha => ⟨exec_slpTimeout_first ha, fun h => ?sane,
    fun u h => ?start, fun u l h => ?arm, fun l h => ?wait, fun h => ?disarm, fun h => ?clear, fun h => ?free⟩⟩
  case word => simp [encode, packT_toNat]
  all_goals rw [exec_slpTimeout_at ha (State.frame_of_at h), sleepStep]
  case sane =>
    refine ⟨fun hle => ?_, fun hlt hdebug => ?_, fun hlt hrelease => ?_⟩
    · rw [saneCheck_of_le hle]; rfl
    · rw [saneCheck_debug hlt hdebug]; rfl
    · rw [saneCheck_release hlt hrelease]; rfl
  case start =>
    refine ⟨fun huse hdebug => ?_, fun huse hrelease => ?_, fun hfree => ?_⟩
    · rw [startCheck_debug (i := .t0) huse hdebug]; rfl
    · rw [startCheck_release (i := .t0) huse hrelease]; rfl
    · rw [startCheck_free (i := .t0) hfree]; rfl
  case arm => cases armStep .ch0 u l s <;> rfl
  case wait => cases waitStep l s <;> rfl
  case disarm => rfl
  case clear => rfl
  case free => rfl

/-! ## SLP.UNTIL -/

/-- In the foreground the first micro-step of SLP.UNTIL is the context check alone (42_sleep.md R190). -/
theorem exec_slpUntil_first (ha : s.isrActive = false) (hidle : s.frame = none) :
    exec (.slpUntil r) s = .next (s.hold ⟨.slpUntil r, .slpUntil (.wait .s1)⟩) := by
  simp [exec, execSlpUntil, s.labelOf_of_idle hidle, foregroundOnly_fg ha, Micro.settle]

/-- Under a label SLP.UNTIL takes the micro-step of its loop there (42_sleep.md R190). -/
theorem exec_slpUntil_at {l : UntilLabel} (ha : s.isrActive = false) (h : s.frame = some ⟨.slpUntil r, .slpUntil l⟩) :
    exec (.slpUntil r) s = .next ((untilStep r l s).settle (.slpUntil r) .slpUntil fun _ s => s) := by
  simp [exec, execSlpUntil, s.labelOf_of_at h, foregroundOnly_fg ha]

theorem frameFree_untilStep (r : WakeReason) : FrameFree (untilStep r) where
  withFrames l u v := by
    cases l with
    | wait l => simp only [untilStep, waitStep_withFrames]; exact Micro.mapState_call _ fun _ _ => rfl
    | test => simp only [untilStep, apply_ite (Micro.mapState (·.withFrames v))]; rfl
  sameSeq l s := untilStep_all (writeClosed_sameSeq s) (.refl s) r l

/-- With the latch set and the reason there, the loop waits once, consuming the latch, and returns at its test
(42_sleep.md R190). -/
theorem untilStep_returnsIn (hlatched : s.cfg.waitLatch = .latched) (hlatch : s.evLatch = true) (hwake : s.wake = r) :
    ReturnsIn (untilStep r) 2 (.wait .s1) s () { s with evLatch := false } := by
  have wait : untilStep r (.wait .s1) s = .goto .test { s with evLatch := false } := by
    rw [untilStep, waitStep_latched hlatched hlatch, Micro.call]
  exact .goto wait (.ret (if_pos hwake))

theorem State.atCommandStart_fg (ha : s.isrActive = false) (hidle : s.fgFrame = none) : s.atCommandStart = true := by
  simp [State.atCommandStart, State.frame_fg ha, hidle, State.ctx_fg s ha]

/-- Settles O29. -/
theorem slpUntilWaitsForTheReason : Obligations.SlpUntilWaitsForTheReason := by
  refine ⟨fun r => ?word, fun s r => exec_waiting_isr rfl, fun s r ha => ⟨exec_slpUntil_first ha, fun l h => ?wait,
    fun h => ?test, fun hidle hlatched hlatch hwake => ?whole⟩⟩
  case word => cases r <;> rfl
  case wait =>
    rw [exec_slpUntil_at ha (State.frame_of_at h), untilStep]
    cases waitStep l s <;> rfl
  case test =>
    rw [exec_slpUntil_at ha (State.frame_of_at h), untilStep]
    refine ⟨fun hwake => ?_, fun hwake => ?_⟩
    · rw [if_pos hwake, Micro.settle]
    · rw [if_neg hwake, Micro.settle]
  case whole =>
    have hs := State.atCommandStart_fg ha hidle
    rw [execTimes_succ 2 (exec_slpUntil_first ha (State.frame_of_atCommandStart hs))]
    exact execTimes_of_returnsIn (frameFree_untilStep r) (fun l u _ hactive hu => exec_slpUntil_at (hactive.trans ha) hu) hs
      (.refl s) (untilStep_returnsIn hlatched hlatch hwake)

end

/-! ## An operation from label to label -/

/-- From label `l` and state `s` the operation `op` goes in `n` micro-steps, with no step of another agent between them, to the
label `k` with state `t`. -/
inductive GoesTo {ℓ α : Type} (op : ℓ → State → Micro ℓ α) : Nat → ℓ → State → ℓ → State → Prop
  | refl (l : ℓ) (s : State) : GoesTo op 0 l s l s
  | goto {n : Nat} {l k m : ℓ} {s u t : State} (h : op l s = .goto k u) (hk : GoesTo op n k u m t) :
      GoesTo op (n + 1) l s m t

/-- The caller of an operation that returns goes on from where it says. -/
theorem ReturnsIn.call_goesTo {ℓ μ α β : Type} {op : ℓ → State → Micro ℓ α} {outer : μ → State → Micro μ β} {into : ℓ → μ}
    {k : α → State → Micro μ β} {n m : Nat} {l : ℓ} {l' l'' : μ} {s t u x : State} {v : α} (h : ReturnsIn op n l s v t)
    (hcall : ∀ l s, outer (into l) s = (op l s).call into k) (hk : k v t = .goto l' u) (hrest : GoesTo outer m l' u l'' x) :
    GoesTo outer (m + n) (into l) s l'' x := by
  induction h with
  | ret h => exact .goto (by rw [hcall, h, Micro.call, hk]) hrest
  | goto h _ ih => exact .goto (by rw [hcall, h, Micro.call]) (ih hk)

/-- A command under execution whose micro-steps are those of `op` goes where `op` goes. -/
theorem execTimes_of_goesTo {ℓ : Type} {op : ℓ → State → Micro ℓ Unit} {i : Instr} {into : ℓ → Label} {n : Nat} {l k : ℓ}
    {s u t : State} (hop : FrameFree op)
    (hexec : ∀ l u, u.cfg = s.cfg → u.isrActive = s.isrActive → u.frame = some ⟨i, into l⟩ →
      exec i u = .next ((op l u).settle i into fun _ s => s))
    (hs : s.atCommandStart = true) (hu : s.SameSeq u) (h : GoesTo op n l u k t) (m : Nat) :
    s.SameSeq t ∧ execTimes (m + n) i (u.hold ⟨i, into l⟩) = execTimes m i (t.hold ⟨i, into k⟩) := by
  induction h with
  | refl => exact ⟨hu, rfl⟩
  | @goto n l k k' u v t h _ ih =>
    have hv : u.SameSeq v := by simpa [h, Micro.All, Micro.Sat] using hop.sameSeq l u
    have ⟨hcfg, _, _, _, _, hactive, _⟩ := hu
    have hx := hexec l (u.hold ⟨i, into l⟩) (by simpa using hcfg) (by simpa using hactive)
      (State.frame_hold (hu.atCommandStart hs) _)
    rw [State.hold_eq_withFrames, hop.withFrames, h, Micro.mapState, Micro.settle, ← State.hold_eq_withFrames,
      hv.withFrames_hold (hu.atCommandStart hs), State.hold_hold ((hu.trans hv).atCommandStart hs)] at hx
    obtain ⟨ht, hrun⟩ := ih (hu.trans hv)
    exact ⟨ht, (execTimes_succ (m + n) hx).trans hrun⟩

/-! ## The body of SLP.DURATION -/

section

variable {s : State} {d : Ticks}

theorem frameFree_durationStep (d : Ticks) : FrameFree (durationStep d) where
  withFrames l u v := by
    cases l with
    | begin l => simp only [durationStep, nowStep_withFrames]; exact Micro.mapState_call _ fun _ _ => rfl
    | again start l => simp only [durationStep, nowStep_withFrames]; exact Micro.mapState_call _ fun _ _ => rfl
    | sleep start t l =>
      simp only [durationStep, (frameFree_sleepStep t).withFrames]; exact Micro.mapState_call _ fun _ _ => rfl
    | test start => simp only [durationStep, apply_ite (Micro.mapState (·.withFrames v))]; rfl
  sameSeq l s := durationStep_all (writeClosed_sameSeq s) (.refl s) d l

/-- An uninterrupted time query returns the present time in its third micro-step (40_clock.md R106). -/
theorem nowStep_returnsIn (hok : s.cfg.build = .release ∨ s.lastNow ≤ time s.ovf s.counter) :
    ReturnsIn nowStep 3 .s1 s (time s.ovf s.counter) { s with lastNow := time s.ovf s.counter } :=
  .goto rfl (.goto rfl (.ret ((if_pos rfl).trans (recordNow_ok hok))))

/-- With no time gone by, all of the duration remains (42_sleep.md R189, 40_clock.md R112, R114). -/
theorem toTicks24_remaining_self (d : Ticks) (start : Time) : toTicks24 (remaining d start start) = d := by
  have hd := d.isLt
  have hremains : remaining d start start = d.setWidth 56 := by simp [remaining, clampedDiff]
  have hmax : d.setWidth 56 ≤ 0xFFFFFF := by
    rw [BitVec.le_def, BitVec.toNat_setWidth_of_le (by decide)]
    exact Nat.le_of_lt_succ hd
  rw [hremains, toTicks24, if_pos hmax, BitVec.setWidth_setWidth_of_le _ (by decide), BitVec.setWidth_eq]

/-- The state in which an uninterrupted SLP.DURATION comes to its first sane check (42_sleep.md R189). -/
def State.durationBegun (s : State) : State := { s with lastNow := time s.ovf s.counter, wake := .cleared }

@[simp] theorem State.durationBegun_cfg (s : State) : s.durationBegun.cfg = s.cfg := rfl
@[simp] theorem State.durationBegun_sane (s : State) : s.durationBegun.sane = s.sane := rfl

/-- The body of SLP.DURATION reads the time twice, in three micro-steps each, clears the wake reason, and so stands before the
sane check of all of its duration (42_sleep.md R189). -/
theorem durationStep_goesTo_sane (hok : s.cfg.build = .release ∨ s.lastNow ≤ time s.ovf s.counter) :
    GoesTo (durationStep d) 7 (.begin .s1) s (.sleep (time s.ovf s.counter) d .sane) s.durationBegun := by
  have clear {u : State} : GoesTo (durationStep d) 1 (.sleep (time s.ovf s.counter) d .clear) u
      (.sleep (time s.ovf s.counter) d .sane) u.clearWake := .goto rfl (.refl _ _)
  have again := (nowStep_returnsIn (s := { s with lastNow := time s.ovf s.counter }) (.inr (BitVec.le_refl _))).call_goesTo
    (outer := durationStep d) (into := .again (time s.ovf s.counter)) (fun _ _ => rfl)
    (by rw [toTicks24_remaining_self]) clear
  exact (nowStep_returnsIn hok).call_goesTo (into := DurationLabel.begin) (fun _ _ => rfl) rfl again

/-- A command that runs the body of SLP.DURATION for a `d` above `SANE` faults in `Debug` with no other agent in between, in the
eighth micro-step of the body (42_sleep.md R188, R189). -/
theorem execTimes_duration_saneTimeout {i : Instr} {into : DurationLabel → Label} {u : State} (hs : s.atCommandStart = true)
    (hexec : ∀ l u, u.cfg = s.cfg → u.isrActive = s.isrActive → u.frame = some ⟨i, into l⟩ →
      exec i u = .next ((durationStep d l u).settle i into fun _ s => s))
    (hu : s.SameSeq u) (hdebug : u.cfg.build = .debug) (hmono : u.lastNow ≤ time u.ovf u.counter)
    (habove : u.sane.toNat < d.toNat) :
    execTimes 8 i (u.hold ⟨i, into (.begin .s1)⟩) = .next
      ((u.durationBegun.hold ⟨i, into (.sleep (time u.ovf u.counter) d .sane)⟩).raiseFault .saneTimeout) := by
  obtain ⟨ht, hrun⟩ := execTimes_of_goesTo (frameFree_durationStep d) hexec hs hu (durationStep_goesTo_sane (.inr hmono)) 1
  have ⟨hcfg, _, _, _, _, hactive, _⟩ := ht
  have hcheck := hexec _ _ ((State.hold_cfg _ _).trans hcfg) ((State.hold_isrActive _ _).trans hactive)
    (State.frame_hold (ht.atCommandStart hs) ⟨i, into (.sleep (time u.ovf u.counter) d .sane)⟩)
  rw [durationStep, sleepStep, saneCheck_debug (by simpa using habove) (by simpa using hdebug)] at hcheck
  rw [hrun, execTimes_succ 0 hcheck]
  rfl

/-! ## SLP.DURATION -/

/-- In the foreground the first micro-step of SLP.DURATION is the context check alone (42_sleep.md R189). -/
theorem exec_slpDuration_first (ha : s.isrActive = false) (hidle : s.frame = none) :
    exec (.slpDuration d) s = .next (s.hold ⟨.slpDuration d, .slpDuration (.begin .s1)⟩) := by
  simp [exec, execSlpDuration, s.labelOf_of_idle hidle, foregroundOnly_fg ha, Micro.settle]

/-- Under a label SLP.DURATION takes the micro-step of its body there (42_sleep.md R189). -/
theorem exec_slpDuration_at {l : DurationLabel} (ha : s.isrActive = false)
    (h : s.frame = some ⟨.slpDuration d, .slpDuration l⟩) :
    exec (.slpDuration d) s = .next ((durationStep d l s).settle (.slpDuration d) .slpDuration fun _ s => s) := by
  simp [exec, execSlpDuration, s.labelOf_of_at h, foregroundOnly_fg ha]

/-- Settles O28. -/
theorem slpDurationLoops : Obligations.SlpDurationLoops := by
  refine ⟨fun d => ?word, fun s d => exec_waiting_isr rfl, fun s d ha => ⟨exec_slpDuration_first ha, fun l h => ?begin,
    fun start l h => ?again, fun start u l h => ?sleep, fun start h => ?test, fun hidle hdebug hmono habove => ?above⟩⟩
  case word => simp [encode, packT_toNat]
  case above =>
    have hs := State.atCommandStart_fg ha hidle
    rw [execTimes_succ 8 (exec_slpDuration_first ha (State.frame_of_atCommandStart hs))]
    exact execTimes_duration_saneTimeout hs (fun l u _ hactive hu => exec_slpDuration_at (hactive.trans ha) hu) (.refl s)
      hdebug hmono habove
  all_goals rw [exec_slpDuration_at ha (State.frame_of_at h), durationStep]
  case begin => cases nowStep l s <;> rfl
  case again => cases nowStep l s <;> rfl
  case sleep => cases sleepStep u l s <;> rfl
  case test =>
    refine ⟨fun hwake => ?_, fun hwake => ?_⟩
    · rw [if_pos hwake, Micro.settle]
    · rw [if_neg hwake, Micro.settle]

/-! ## HF.START.DELAY -/

/-- The request starts the HF oscillator where it is stopped (43_startup.md R222). -/
theorem State.startReq_hf (s : State) :
    s.startReq .hf = { s with hfclk := if s.hfclk = .stopped then .starting else s.hfclk } := by
  rw [State.startReq]
  split <;> rfl

/-- In the foreground the first micro-step of HF.START.DELAY requests the oscillator (43_startup.md R225). -/
theorem exec_hfStartDelay_first (ha : s.isrActive = false) (hidle : s.frame = none) :
    exec .hfStartDelay s = .next ((s.startReq .hf).hold ⟨.hfStartDelay, .hfStartDelay (.begin .s1)⟩) := by
  simp [exec, execHfStartDelay, s.labelOf_of_idle hidle, foregroundOnly_fg ha, Micro.settle]

/-- Under a label HF.START.DELAY takes the micro-step of the body of SLP.DURATION there (43_startup.md R225). -/
theorem exec_hfStartDelay_at {l : DurationLabel} (ha : s.isrActive = false)
    (h : s.frame = some ⟨.hfStartDelay, .hfStartDelay l⟩) :
    exec .hfStartDelay s
      = .next ((durationStep s.cfg.hfDelay l s).settle .hfStartDelay .hfStartDelay fun _ s => s) := by
  simp [exec, execHfStartDelay, s.labelOf_of_at h, foregroundOnly_fg ha]

/-- Settles O32: the request, and then the body of SLP.DURATION for `P_HF_DELAY`. -/
theorem hfStartDelaySleeps : Obligations.HfStartDelaySleeps := by
  refine ⟨by decide, fun s => exec_waiting_isr rfl, fun s ha => ⟨fun hidle => ?request, fun l h => ?body,
    fun start h => ?test, fun hidle hdebug hmono habove => ?above⟩⟩
  case request => rw [exec_hfStartDelay_first ha hidle, State.startReq_hf]
  case body =>
    rw [exec_hfStartDelay_at ha (State.frame_of_at h)]
    cases durationStep s.cfg.hfDelay l s <;> rfl
  case test =>
    rw [exec_hfStartDelay_at ha (State.frame_of_at h), durationStep]
    refine ⟨fun hwake => ?_, fun hwake => ?_⟩
    · rw [if_pos hwake, Micro.settle]
    · rw [if_neg hwake, Micro.settle]
  case above =>
    have hs := State.atCommandStart_fg ha hidle
    rw [execTimes_succ 8 (exec_hfStartDelay_first ha (State.frame_of_atCommandStart hs)), State.startReq_hf]
    refine execTimes_duration_saneTimeout hs (fun l u hcfg hactive hu => ?_) ?_ hdebug hmono habove
    · rw [← hcfg]
      exact exec_hfStartDelay_at (hactive.trans ha) hu
    · exact .refl s

end

end Sys2Proof.Machine
end

section
/-! SUPPORT. The two start-up commands that wait for the oscillator's interrupt, LF.START and HF.START.IRQ, label by label. Both
end alike: a test that sees the reason goes on to the disable, which completes. -/

namespace Sys2Proof.Machine

section

variable {s : State} {r : WakeReason}

/-! ## The loop and its end -/

theorem untilStep_test_of_eq (h : s.wake = r) : untilStep r .test s = .ret () s := if_pos h

theorem untilStep_test_of_ne (h : s.wake ≠ r) : untilStep r .test s = .goto (.wait .s1) s := if_neg h

theorem State.frame_hold_fg (ha : s.isrActive = false) (f : CmdFrame) : (s.hold f).frame = some f := by
  rw [State.frame_fg ((State.hold_isrActive s f).trans ha), State.fgFrame_hold ha]

/-- In the foreground a completion discards whatever frame the command had (30_encoding.md R82). -/
theorem State.complete_fgFrame (ha : s.isrActive = false) (f : Option CmdFrame) :
    ({ s with fgFrame := f } : State).complete = s.complete := by
  rw [s.complete_fg ha]
  exact State.complete_fg { s with fgFrame := f } ha

/-- A command of the foreground that goes on at a label in one micro-step and completes in the next has, in the two, the effect
`g` of the completing one, if `g` leaves the frame and the context alone. -/
theorem execTimes_two_of_hold_complete {i : Instr} {f : CmdFrame} {g : State → State} (ha : s.isrActive = false)
    (hfirst : exec i s = .next (s.hold f)) (hlast : exec i (s.hold f) = .next (g (s.hold f)).complete)
    (hframe : g { s with fgFrame := some f } = { g s with fgFrame := some f }) (hactive : (g s).isrActive = s.isrActive) :
    execTimes 2 i s = .next (g s).complete := by
  rw [execTimes_succ 1 hfirst, execTimes_succ 0 hlast, execTimes, State.hold_fg s ha, hframe,
    State.complete_fgFrame (hactive.trans ha)]

/-! ## LF.START -/

/-- The request starts the LF oscillator where it is stopped (43_startup.md R222). -/
theorem State.startReq_lf (s : State) :
    s.startReq .lf = { s with lfclk := if s.lfclk = .stopped then .starting else s.lfclk } := by
  rw [State.startReq]
  split <;> rfl

/-- In the foreground the first micro-step of LF.START clears the wake reason (43_startup.md R224). -/
theorem exec_lfStart_first (ha : s.isrActive = false) (hidle : s.frame = none) :
    exec .lfStart s = .next (s.clearWake.hold ⟨.lfStart, .lfStart .enable⟩) := by
  simp [exec, execLfStart, s.labelOf_of_idle hidle, foregroundOnly_fg ha, Micro.settle]

/-- Under a label LF.START takes the micro-step of its body there (43_startup.md R224). -/
theorem exec_lfStart_at {l : LfLabel} (ha : s.isrActive = false) (h : s.frame = some ⟨.lfStart, .lfStart l⟩) :
    exec .lfStart s = .next ((lfStep l s).settle .lfStart .lfStart fun _ s => s) := by
  simp [exec, execLfStart, s.labelOf_of_at h, foregroundOnly_fg ha]

/-- The test that sees the reason goes on to the disable (43_startup.md R224). -/
theorem exec_lfStart_test (ha : s.isrActive = false) (h : s.frame = some ⟨.lfStart, .lfStart (.loop .test)⟩)
    (hwake : s.wake = .lfClockStarted) : exec .lfStart s = .next (s.hold ⟨.lfStart, .lfStart .disable⟩) := by
  rw [exec_lfStart_at ha h, lfStep, untilStep_test_of_eq hwake, Micro.call, Micro.settle]

/-- The disable completes LF.START (43_startup.md R224). -/
theorem exec_lfStart_disable (ha : s.isrActive = false) (h : s.frame = some ⟨.lfStart, .lfStart .disable⟩) :
    exec .lfStart s = .next { s with intenLf := false }.complete := by
  rw [exec_lfStart_at ha h, lfStep, Micro.settle]

/-- Settles O31: under each label the micro-step is that of the body of R224 there. -/
theorem lfStartWaitsForTheOscillator : Obligations.LfStartWaitsForTheOscillator := by
  refine ⟨by decide, fun s => exec_waiting_isr rfl, fun s ha => ⟨exec_lfStart_first ha, fun h => ?enable, fun h => ?request,
    fun l h => ?wait, fun h => ⟨fun hwake => ⟨?seen, ?whole⟩, fun hwake => ?again⟩,
    fun h => exec_lfStart_disable ha (State.frame_of_at h)⟩⟩
  case seen => exact exec_lfStart_test ha (State.frame_of_at h) hwake
  case whole =>
    exact execTimes_two_of_hold_complete (g := fun s => { s with intenLf := false }) ha
      (exec_lfStart_test ha (State.frame_of_at h) hwake)
      (exec_lfStart_disable ((State.hold_isrActive _ _).trans ha) (State.frame_hold_fg ha _)) rfl rfl
  all_goals rw [exec_lfStart_at ha (State.frame_of_at h), lfStep]
  case enable => rfl
  case request => rw [State.startReq_lf, Micro.settle]
  case wait =>
    rw [untilStep]
    cases waitStep l s <;> rfl
  case again => rw [untilStep_test_of_ne hwake, Micro.call, Micro.settle]

/-! ## HF.START.IRQ -/

/-- In the foreground the first micro-step of HF.START.IRQ is its precondition (43_startup.md R226). -/
theorem exec_hfStartIrq_first (ha : s.isrActive = false) (hidle : s.frame = none) :
    exec .hfStartIrq s = .next ((hfCheck s).settle .hfStartIrq .hfStartIrq fun _ s => s) := by
  simp [exec, execHfStartIrq, s.labelOf_of_idle hidle, foregroundOnly_fg ha]

/-- Under a label HF.START.IRQ takes the micro-step of its body there (43_startup.md R226). -/
theorem exec_hfStartIrq_at {l : HfIrqLabel} (ha : s.isrActive = false)
    (h : s.frame = some ⟨.hfStartIrq, .hfStartIrq l⟩) :
    exec .hfStartIrq s = .next ((hfIrqStep l s).settle .hfStartIrq .hfStartIrq fun _ s => s) := by
  simp [exec, execHfStartIrq, s.labelOf_of_at h, foregroundOnly_fg ha]

/-- In `Debug` an oscillator that runs, or an event left over, fails the precondition (43_startup.md R227). -/
theorem hfCheck_debug (hdebug : s.cfg.build = .debug) (h : s.hfclk = .running ∨ s.evtHfStarted = true) :
    hfCheck s = .fault .hfPrecondition s := if_pos ⟨hdebug, h⟩

/-- In `Release` there is no precondition, and in `Debug` it passes where neither holds (43_startup.md R227). -/
theorem hfCheck_pass (h : s.cfg.build = .release ∨ s.hfclk ≠ .running ∧ s.evtHfStarted = false) :
    hfCheck s = .goto .clear s := by
  refine if_neg fun ⟨hdebug, hstale⟩ => ?_
  obtain hrelease | ⟨hclk, hevt⟩ := h
  · rw [hrelease] at hdebug
    cases hdebug
  · simp [hclk, hevt] at hstale

/-- The enable goes on to the request (43_startup.md R226). -/
theorem exec_hfStartIrq_enable (ha : s.isrActive = false) (h : s.frame = some ⟨.hfStartIrq, .hfStartIrq .enable⟩) :
    exec .hfStartIrq s = .next ({ s with intenHf := true }.hold ⟨.hfStartIrq, .hfStartIrq .request⟩) := by
  rw [exec_hfStartIrq_at ha h, hfIrqStep, Micro.settle]

/-- The test that sees the reason goes on to the disable (43_startup.md R226). -/
theorem exec_hfStartIrq_test (ha : s.isrActive = false) (h : s.frame = some ⟨.hfStartIrq, .hfStartIrq (.loop .test)⟩)
    (hwake : s.wake = .hfClockStarted) : exec .hfStartIrq s = .next (s.hold ⟨.hfStartIrq, .hfStartIrq .disable⟩) := by
  rw [exec_hfStartIrq_at ha h, hfIrqStep, untilStep_test_of_eq hwake, Micro.call, Micro.settle]

/-- The disable completes HF.START.IRQ (43_startup.md R226). -/
theorem exec_hfStartIrq_disable (ha : s.isrActive = false) (h : s.frame = some ⟨.hfStartIrq, .hfStartIrq .disable⟩) :
    exec .hfStartIrq s = .next { s with intenHf := false }.complete := by
  rw [exec_hfStartIrq_at ha h, hfIrqStep, Micro.settle]

/-- An event left over requests the clock line once it is enabled (60_exceptions.md R246). -/
theorem requests_clock_of_evtHfStarted (h : s.evtHfStarted = true) (f : CmdFrame) :
    ({ s with intenHf := true }.hold f).requests .clock = true := by
  simp [State.requests, State.clockLevel, h]

/-- Settles O33: after the precondition, under each label the micro-step is that of the body of R226 there. -/
theorem hfStartIrqWaitsForTheOscillator : Obligations.HfStartIrqWaitsForTheOscillator := by
  refine ⟨by decide, fun s => exec_waiting_isr rfl, fun s ha => ⟨fun hidle hdebug hstale => ?fails,
    fun hidle hok => ?passes, fun h => ?clear,
    fun h => ⟨exec_hfStartIrq_enable ha (State.frame_of_at h), fun hevt => ?stale⟩, fun h => ?request, fun l h => ?wait,
    fun h => ⟨fun hwake => ⟨?seen, ?whole⟩, fun hwake => ?again⟩,
    fun h => exec_hfStartIrq_disable ha (State.frame_of_at h)⟩⟩
  case fails => rw [exec_hfStartIrq_first ha hidle, hfCheck_debug hdebug hstale, Micro.settle]
  case passes => rw [exec_hfStartIrq_first ha hidle, hfCheck_pass hok, Micro.settle]
  case stale => exact ⟨_, exec_hfStartIrq_enable ha (State.frame_of_at h), requests_clock_of_evtHfStarted hevt _⟩
  case seen => exact exec_hfStartIrq_test ha (State.frame_of_at h) hwake
  case whole =>
    exact execTimes_two_of_hold_complete (g := fun s => { s with intenHf := false }) ha
      (exec_hfStartIrq_test ha (State.frame_of_at h) hwake)
      (exec_hfStartIrq_disable ((State.hold_isrActive _ _).trans ha) (State.frame_hold_fg ha _)) rfl rfl
  all_goals rw [exec_hfStartIrq_at ha (State.frame_of_at h), hfIrqStep]
  case clear => rfl
  case request => rw [State.startReq_hf, Micro.settle]
  case wait =>
    rw [untilStep]
    cases waitStep l s <;> rfl
  case again => rw [untilStep_test_of_ne hwake, Micro.call, Micro.settle]

end

end Sys2Proof.Machine
end

section
/-! SUPPORT. The interrupt side: the request of each line, entry and exit, the overflow part, the clock, radio and power
handlers, and the return of a finished list. -/

namespace Sys2Proof.Machine

section

variable {s : State} {f : IsrFrame}

/-! ## The requests -/

theorem ChIx.exists_iff {p : ChIx → Prop} : (∃ ch, p ch) ↔ p .ch0 ∨ p .ch1 ∨ p .ch2 ∨ p .ch3 := by
  constructor
  · rintro ⟨ch, h⟩
    cases ch <;> simp [h]
  · rintro (h | h | h | h) <;> exact ⟨_, h⟩

theorem Line.exists_iff {p : Line → Prop} : (∃ line, p line) ↔ p .timer ∨ p .clock ∨ p .radio ∨ p .power := by
  constructor
  · rintro ⟨line, h⟩
    cases line <;> simp [h]
  · rintro (h | h | h | h) <;> exact ⟨_, h⟩

/-- `TIMER_REQ`: the software pend, or the level of the overflow event or of a channel (60_exceptions.md R245). -/
theorem State.requests_timer_iff : s.requests .timer = true ↔
    s.pendTimerSw = true ∨ (s.evtOvf = true ∧ s.intenOvf = true)
      ∨ ∃ ch, (s.chan ch).evt = true ∧ (s.chan ch).inten = true := by
  rw [ChIx.exists_iff]
  simp [State.requests, State.timerLevel, Channel.requests, State.chan, Channels.get, or_assoc]

/-- `CLOCK_REQ` is the level of the two started events (60_exceptions.md R245, R246). -/
theorem State.requests_clock_iff : s.requests .clock = true ↔
    (s.evtLfStarted = true ∧ s.intenLf = true) ∨ (s.evtHfStarted = true ∧ s.intenHf = true) := by
  simp [State.requests, State.clockLevel]

theorem State.irqReq_iff : s.irqReq = true ↔ ∃ line, s.requests line = true := by
  rw [Line.exists_iff]
  simp [State.irqReq, or_assoc]

/-- Settles O36. -/
theorem interruptRequests : Obligations.InterruptRequests :=
  fun _ => ⟨State.requests_timer_iff, State.requests_clock_iff, Iff.rfl, Iff.rfl, State.irqReq_iff⟩

/-! ## Entry and exit -/

@[simp] theorem State.takeMove_requests (line : Line) : s.takeMove.requests line = s.requests line := by
  unfold State.takeMove; split <;> rfl

/-- An idle, unfaulted interrupt sequencer enters the drawn line if it requests (60_exceptions.md R251, R252). -/
theorem step_of_entry {line : Line} (hmove : s.nextMove = .isr line) (hfault : s.fault = false)
    (hidle : s.isrActive = false) (hreq : s.requests line = true) : step s = .next (s.takeMove.enter line) := by
  rw [step_of_isr hmove, isrStep]
  simp [hfault, hidle, hreq]

/-- Settles O37: which pend an entry clears is read off line by line. -/
theorem interruptEntryAndExit : Obligations.InterruptEntryAndExit := by
  refine ⟨fun s line hmove hfault hidle hreq => ?entry, fun s f h => ?exit⟩
  case entry =>
    rw [step_of_entry hmove hfault hidle hreq, State.enter]
    cases line <;> simp [firstStep]
  case exit => rw [step_of_handlerNext h, handlerStep, State.label_of_handlerNext h, State.leave]

/-! ## The overflow part -/

/-- S1 counts, if there is something to count, and goes on to the hold (60_exceptions.md R256). -/
theorem step_of_ovfCount (h : s.handlerNext f .ovfCount) :
    step s = .next (s.takeMove.countOverflow.atHandler f .ovfSpin) := by
  rw [step_of_handlerNext h, handlerStep, State.label_of_handlerNext h]

theorem State.countOverflow_of_set (hevt : s.evtOvf = true) (hclr : s.evtOvfClrPend = false) :
    s.countOverflow = { s with ovf := s.ovf + 1, evtOvfClrPend := true } :=
  if_pos (by simp [hevt, hclr])

theorem State.countOverflow_of_not (h : s.evtOvf = false ∨ s.evtOvfClrPend = true) : s.countOverflow = s := by
  refine if_neg fun hset => ?_
  obtain hevt | hclr := h
  · simp [hevt] at hset
  · simp [hclr] at hset

/-- S2 holds while the clear is pending, and then goes on to the scan of the pool's indices (60_exceptions.md R255, R256). -/
theorem step_of_ovfSpin (h : s.handlerNext f .ovfSpin) :
    step s = .next
      (if s.evtOvfClrPend = true then s.takeMove
       else s.takeMove.atHandler f (.poolScan (poolIndices s.cfg.nTimers))) := by
  rw [step_of_handlerNext h, handlerStep, State.label_of_handlerNext h]
  simp only [State.takeMove_evtOvfClrPend, State.takeMove_cfg]
  cases s.cfg.nTimers <;> rfl

/-- Settles O39. -/
theorem overflowPart : Obligations.OverflowPart := by
  refine ⟨fun s f h => ⟨fun hevt hclr => ?counts, fun hnot => ?skips⟩,
    fun s f h => ⟨fun hclr => ?holds, fun hclr htwo => ?two, fun hclr hthree => ?three⟩⟩
  case counts =>
    rw [step_of_ovfCount h, State.countOverflow_of_set (by simpa using hevt) (by simpa using hclr), State.takeMove_ovf,
      State.atHandler]
  case skips => rw [step_of_ovfCount h, State.countOverflow_of_not (by simpa using hnot), State.atHandler]
  case holds => rw [step_of_ovfSpin h, if_pos hclr]
  case two => rw [step_of_ovfSpin h, if_neg (by simp [hclr]), htwo, poolIndices, State.atHandler]
  case three => rw [step_of_ovfSpin h, if_neg (by simp [hclr]), hthree, poolIndices, State.atHandler]

/-! ## The clock, radio and power handlers -/

/-- A handler's post goes on with the reason that the table's cell leaves: the new one at `W`, the old one at `K`
(42_sleep.md R181, R183). -/
theorem postFrom_of_cell {p : Post} {w : WakeReason} (next : HandlerLabel)
    (h : (arbTable s.wake p = .write ∧ p.reason = w) ∨ (arbTable s.wake p = .keep ∧ s.wake = w)) :
    postFrom f next p s = { s with wake := w, isrFrame := some { f with label := next } } := by
  obtain ⟨hcell, rfl⟩ | ⟨hcell, rfl⟩ := h <;> simp [postFrom, arbWrite, hcell, State.atHandler]

/-- A started event is cleared only where its enable is set (60_exceptions.md R258). -/
theorem clear_of_enabled (evt en : Bool) : (if (evt && en) = true then false else evt) = (evt && !en) := by
  cases evt <;> cases en <;> rfl

/-- Settles O44: under each label the handler's micro-step there; what a post leaves is read off the column of its reason. -/
theorem clockRadioAndPowerHandlers : Obligations.ClockRadioAndPowerHandlers := by
  refine fun s f => ⟨fun h => ?lf, fun h => ?lfPost, fun h => ?lfSkip, fun h => ?hf, fun h => ?hfPost, fun h => ?hfSkip,
    fun h => ?radio, fun h => ?power⟩ <;>
    simp only [step_of_handlerNext h, handlerStep, State.label_of_handlerNext h]
  case lf => rw [clear_of_enabled, State.atHandler, State.takeMove_evtLfStarted, State.takeMove_intenLf]
  case lfPost => rw [if_pos trivial, postFrom_of_cell .clockHf (.inl ⟨rfl, rfl⟩), Post.reason]
  case lfSkip => rfl
  case hf => rw [clear_of_enabled, State.atHandler, State.takeMove_evtHfStarted, State.takeMove_intenHf]
  case hfPost => rw [if_pos trivial, postFrom_of_cell .exit (.inl ⟨rfl, rfl⟩), Post.reason]
  case hfSkip => rfl
  case radio | power =>
    refine congrArg Host.Outcome.next (postFrom_of_cell .exit ?_)
    rw [State.takeMove_wake]
    cases s.wake <;> decide

/-! ## The return of a list -/

/-- Past its end a handler's list between two commands is popped (60_exceptions.md R261). -/
theorem listStep_of_past_end {l : ListFrame} (hl : l.frame = none)
    (hlen : (listWords s.cfg l.list).length ≤ 2 ^ 30) (hpc : (listWords s.cfg l.list).length ≤ l.pc.toNat / 4) :
    listStep f l s = .next (s.popList f) := by
  rw [listStep, hl, fetch_of_past_end hlen hpc]

/-- Settles O45. -/
theorem listReturnsToItsHandler : Obligations.ListReturnsToItsHandler := by
  intro s line f l rest hmove hfault hactive hframe hstack hl hlen hpc
  rw [step_of_list hmove hfault hactive hframe hstack,
    listStep_of_past_end hl (by simpa using hlen) (by simpa using hpc), State.popList, hstack, List.tail_cons]

end

end Sys2Proof.Machine
end

section
/-! SUPPORT. The reset values: the families of elements, channels and pool timers, are quiet after reset, whatever the index. -/

namespace Sys2Proof.Machine

/-- Every compare channel is reset, those that belong to no pool timer of the configuration too (70_reset_and_hazards.md R300). -/
theorem chan_reset (p : Params) (ch : ChIx) : (State.resetWith p).chan ch = .reset := by cases ch <;> rfl

/-- Every pool timer is reset, a third one that the configuration does not have too (70_reset_and_hazards.md R300). -/
theorem timer_reset (p : Params) (i : PoolIx) : (State.resetWith p).timer i = .reset := by cases i <;> rfl

/-- Settles O52: an element of its own has its value by the definition of reset, a channel's and a timer's by the lemma on its
family, and the window's by `regValue_reset`. -/
theorem resetValues : Obligations.ResetValues := by
  intro p
  refine ⟨State.resetWith p, rfl,
    rfl, rfl, rfl, rfl, -- `RES` and the foreground
    rfl, rfl, rfl, rfl, rfl, -- the counter and its overflow event
    fun ch => ?channels,
    rfl, rfl, rfl, -- `OVF`, `LAST_NOW`, `POOL_INIT`
    fun i => ?timers,
    rfl, rfl, rfl, rfl, rfl, -- the task timer, `WAKE`, `SANE`
    rfl, rfl, rfl, rfl, rfl, rfl, -- the oscillators
    rfl, rfl, rfl, rfl, rfl, rfl, -- the interrupt side
    rfl, rfl, rfl, -- the fault and the history
    fun r hcmd hsane hconfig => regValue_reset p hcmd hsane hconfig, rfl, rfl⟩
  case channels => rw [chan_reset]; exact ⟨rfl, rfl, rfl, rfl⟩
  case timers => rw [timer_reset]; exact ⟨rfl, rfl, rfl⟩

end Sys2Proof.Machine
end
